-- ==== Sys2Proof/Word.lean ====
section
/-! DEFINITION. The value types of 00_scope.md rule R5: unsigned bit vectors of a stated width. There are no signed
values anywhere in the core. -/

namespace Sys2Proof

/-- A byte: an unsigned 8-bit value (R5). -/
abbrev Byte := BitVec 8

/-- A word: an unsigned 32-bit value (R4, R5). -/
abbrev Word := BitVec 32

/-- The 16-bit command word of format `CMD16` (R80). -/
abbrev CmdWord := BitVec 16

/-- The 9-bit sequencer value `SEQ = {PH[2:0], IDX[5:0]}` of format `SEQ9` (R33, R88). -/
abbrev SeqWord := BitVec 9

end Sys2Proof
end

