-- ==== Sys2Proof/Syntax.lean ====
section
/-! DEFINITION. The instructions: the eight host commands (30_encoding.md R84) and the six micro-operations (R88), one
constructor per row of spec/opcode_table.json, in the table's order. -/

namespace Sys2Proof

/-- The two kinds of instruction of this hardware. `nop` to `rdd` are host commands, presented on the command port
(R80); `uPad` to `uFin` are micro-operations, selected by the sequencer (R88). -/
inductive Instr where
  /-- `NOP`, R101. -/
  | nop
  /-- `INIT`, R102. -/
  | init
  /-- `PUSH b`, R103: `b` is `cmd[7:0]`, every value legal (R85). -/
  | push (b : Byte)
  /-- `HASH`, R104. -/
  | hash
  /-- `RDS`, R105. -/
  | rds
  /-- `RDL`, R106. -/
  | rdl
  /-- `RDE`, R107. -/
  | rde
  /-- `RDD j`, R108: `j` is `cmd[4:0]`, the digest byte index 0 to 31 (R85). -/
  | rdd (j : BitVec 5)
  /-- `U.PAD`, R121. -/
  | uPad
  /-- `U.LDW`, R132. -/
  | uLdw
  /-- `U.EXP i`, R133: `i = IDX`, the schedule index, 16 to 63. -/
  | uExp (i : BitVec 6)
  /-- `U.INI`, R144. -/
  | uIni
  /-- `U.RND i`, R145: `i = IDX`, the round number, 0 to 63. -/
  | uRnd (i : BitVec 6)
  /-- `U.FIN`, R160. -/
  | uFin
deriving DecidableEq, Repr

/-- The encoded form of an instruction: a command word (format `CMD16`, R80) or a sequencer value (format `SEQ9`,
R88). The two never meet: a command word comes from the host, a sequencer value from the registers `PH`, `IDX`. -/
inductive Code where
  /-- A 16-bit word on the command port. -/
  | cmd16 (w : CmdWord)
  /-- A 9-bit value of the sequencer. -/
  | seq9 (q : SeqWord)
deriving DecidableEq, Repr

/-- Why a code names no instruction. -/
inductive DecodeError where
  /-- The command word matches none of the eight patterns (R86). -/
  | illegalCommand (w : CmdWord)
  /-- The sequencer value selects no micro-operation (R88, R89): idle, reserved phase 7, or a phase without operand
  whose `IDX` is not 0. -/
  | noMicroOp (q : SeqWord)
deriving DecidableEq, Repr

/-- Is the instruction a host command (as opposed to a micro-operation)? -/
def Instr.isCommand : Instr → Bool
  | .nop | .init | .push _ | .hash | .rds | .rdl | .rde | .rdd _ => true
  | .uPad | .uLdw | .uExp _ | .uIni | .uRnd _ | .uFin => false

end Sys2Proof
end

