-- ==== Sys2Proof/WellFormed.lean ====
section
/-! DEFINITION. Which instructions the spec gives a meaning: every one but `U.EXP i` with `i < 16` (30_encoding.md R88,
R89). The other operand ranges (`b` 0 to 255, `j` 0 to 31, round number 0 to 63) are the widths of the operand types. -/

namespace Sys2Proof

/-- `U.EXP i` exists for `16 ≤ i ≤ 63` only (R88, R133); every other operand value of every instruction is legal
(R85). -/
def Instr.wf : Instr → Bool
  | .uExp i => decide (16 ≤ i.toNat)
  | .nop | .init | .push _ | .hash | .rds | .rdl | .rde | .rdd _ => true
  | .uPad | .uLdw | .uIni | .uRnd _ | .uFin => true

end Sys2Proof
end

