-- ==== Sys2Proof/Decode.lean ====
section
/-! DEFINITION. The decoder and the encoder: 30_encoding.md R80 to R89. Decoding depends on the bits and on nothing else
(R81). -/

namespace Sys2Proof

/-- The field `op = cmd[15:8]` (R80). -/
def cmdOp (w : CmdWord) : Byte := w.extractLsb' 8 8

/-- The field `imm = cmd[7:0]` (R80). -/
def cmdImm (w : CmdWord) : Byte := w.extractLsb' 0 8

/-- Decoding of a command word (R81, R84, R86): one of the eight commands with its operand (R85), or illegal. -/
def decodeCommand (w : CmdWord) : Except DecodeError Instr :=
  let op := cmdOp w
  let imm := cmdImm w
  if op = 0x00 ∧ imm = 0x00 then .ok .nop
  else if op = 0x01 ∧ imm = 0x00 then .ok .init
  else if op = 0x02 then .ok (.push imm)
  else if op = 0x03 ∧ imm = 0x00 then .ok .hash
  else if op = 0x04 ∧ imm = 0x00 then .ok .rds
  else if op = 0x04 ∧ imm = 0x01 then .ok .rdl
  else if op = 0x04 ∧ imm = 0x02 then .ok .rde
  else if op = 0x05 ∧ imm.extractLsb' 5 3 = 0 then .ok (.rdd (imm.extractLsb' 0 5))
  else .error (.illegalCommand w)

/-- The field `PH = SEQ[8:6]` (R88). -/
def seqPh (q : SeqWord) : BitVec 3 := q.extractLsb' 6 3

/-- The field `IDX = SEQ[5:0]` (R88). -/
def seqIdx (q : SeqWord) : BitVec 6 := q.extractLsb' 0 6

/-- Selection of the micro-operation (R88): `PH` selects, `IDX` is the operand of `U.EXP` and `U.RND` and is 0 for the
others; `(0, 0)`, phase 7 and an `IDX ≠ 0` beside an operation without operand select nothing (R89; DEDUCED, log entry 13). `U.EXP i` with
`i < 16`, which the table's mask admits and R89 gives no step, is decoded and then refused by `Instr.wf`. -/
def decodeSeq (q : SeqWord) : Except DecodeError Instr :=
  let ph := seqPh q
  let idx := seqIdx q
  if ph = 1 ∧ idx = 0 then .ok .uPad
  else if ph = 2 ∧ idx = 0 then .ok .uLdw
  else if ph = 3 then .ok (.uExp idx)
  else if ph = 4 ∧ idx = 0 then .ok .uIni
  else if ph = 5 then .ok (.uRnd idx)
  else if ph = 6 ∧ idx = 0 then .ok .uFin
  else .error (.noMicroOp q)

/-- Decoding of either format. -/
def decode : Code → Except DecodeError Instr
  | .cmd16 w => decodeCommand w
  | .seq9 q => decodeSeq q

/-- A command word of its two fields (R80). -/
def cmdWord (op imm : Byte) : CmdWord := op ++ imm

/-- A sequencer value of its two fields, `{PH, IDX}` (R33). -/
def seqWord (ph : BitVec 3) (idx : BitVec 6) : SeqWord := ph ++ idx

/-- The encoding tables of R84 and R88. -/
def encode : Instr → Code
  | .nop => .cmd16 (cmdWord 0x00 0x00)
  | .init => .cmd16 (cmdWord 0x01 0x00)
  | .push b => .cmd16 (cmdWord 0x02 b)
  | .hash => .cmd16 (cmdWord 0x03 0x00)
  | .rds => .cmd16 (cmdWord 0x04 0x00)
  | .rdl => .cmd16 (cmdWord 0x04 0x01)
  | .rde => .cmd16 (cmdWord 0x04 0x02)
  | .rdd j => .cmd16 (cmdWord 0x05 ((0 : BitVec 3) ++ j))
  | .uPad => .seq9 (seqWord 1 0)
  | .uLdw => .seq9 (seqWord 2 0)
  | .uExp i => .seq9 (seqWord 3 i)
  | .uIni => .seq9 (seqWord 4 0)
  | .uRnd i => .seq9 (seqWord 5 i)
  | .uFin => .seq9 (seqWord 6 0)

/-- Which format a word of spec/opcode_table.json is in, given its number of bits: fewer than 16 bits is `SEQ9`; with
16 bits it is `CMD16` if that is a legal command, else `SEQ9` if it fits nine bits and selects a micro-operation, else
`CMD16`. The machine itself never has this choice: a command word and a sequencer value reach it by different ways
(log entry 11). -/
def tableCode (nbits w : Nat) : Code :=
  if nbits < 16 then .seq9 (BitVec.ofNat 9 w)
  else
    match decodeCommand (BitVec.ofNat 16 w), decodeSeq (BitVec.ofNat 9 w) with
    | .ok _, _ => .cmd16 (BitVec.ofNat 16 w)
    | .error _, .ok _ => if w < 512 then .seq9 (BitVec.ofNat 9 w) else .cmd16 (BitVec.ofNat 16 w)
    | .error _, .error _ => .cmd16 (BitVec.ofNat 16 w)

/-- The instruction the decoder reads from a word of spec/opcode_table.json. There is no byte order to apply: each
format is presented as one value (R62, R80, R88). -/
def decodeTableWord (nbits w : Nat) : Option Instr :=
  (decode (tableCode nbits w)).toOption

end Sys2Proof
end

