-- ==== Sys2Proof/Config.lean ====
section
/-! DEFINITION. What the spec leaves open and no rule fixes: the datapath content after reset (10_state.md R42,
70_reset_and_hazards.md R210, U1) and the place of the command port in a platform's address map (20_memory.md R68,
U12). Each is a constant with no body, so that no proof can learn its value. The tables `K` and `IV`, which are
configuration too (R43), have values and stand in Machine/Rom.lean. -/

namespace Sys2Proof.Config

/-- DESIGN CHOICE (log entries 3, 4). `resetIB n old i` is what `IB[i]` holds after reset number `n` when `IB` held
`old` before it (`[]` when nothing is known to have been there): unspecified (R42, R210). -/
opaque resetIB : Nat → List Byte → Nat → Byte

/-- DESIGN CHOICE (log entries 3, 4). `resetBLK n old i` is what `BLK[i]` holds after reset number `n` when `BLK` held
`old` before it: unspecified (R42, R210). -/
opaque resetBLK : Nat → List Byte → Nat → Byte

/-- DESIGN CHOICE (log entries 3, 4). `resetW n old i` is what `W[i]` holds after reset number `n` when `W` held `old`
before it: unspecified (R42, R210). -/
opaque resetW : Nat → List Word → Nat → Word

/-- DESIGN CHOICE (log entries 3, 4). `resetWorking n old j` is what working register `r[j]` (R26) holds after reset
number `n` when `a` to `h` held `old` before it: unspecified (R42, R210). -/
opaque resetWorking : Nat → List Word → Nat → Word

/-- DESIGN CHOICE (log entries 3, 4). `resetDG n old j` is what `DG[j]` holds after reset number `n` when `DG` held `old`
before it: unspecified (R42, R210). -/
opaque resetDG : Nat → List Word → Nat → Word

/-- The open parameter `CMD_PORT_BASE` (R68, U12): where a platform maps the command port. No rule reads it, and no
definition of this model does (log entry 15). -/
opaque cmdPortBase : Nat

end Sys2Proof.Config
end

