-- ==== Sys2Proof/Machine/State.lean ====
section
/-! DEFINITION. The state of the core (10_state.md R20), the outside world's pins (R44), the stops, and the state after
reset (R42). Plain data. -/

namespace Sys2Proof.Machine

/-- The working registers `a` to `h` (R26). -/
structure Working where
  a : Word
  b : Word
  c : Word
  d : Word
  e : Word
  f : Word
  g : Word
  h : Word
deriving DecidableEq, Repr

/-- The response codes a host step can produce (30_encoding.md R83); codes 5, 6, 7 are reserved and never produced. -/
inductive RspCode where
  /-- 0: the command was executed. -/
  | ok
  /-- 1: rejected, the core is computing. -/
  | busy
  /-- 2: rejected, not allowed in the present top-level state. -/
  | badState
  /-- 3: rejected, the word is a reserved encoding. -/
  | illegal
  /-- 4: `HASH` raised `InputTooLong`. -/
  | fail
deriving DecidableEq, Repr

/-- The response of a host step: a code and a data byte (R82). -/
structure Response where
  code : RspCode
  data : Byte
deriving DecidableEq, Repr

/-- The input pins as sampled at one transition (R44): `rst`, and `cmd_valid` with `cmd` (`some w` is `cmd_valid = 1`
with word `w`). With neither driven the transition is the core's turn. -/
structure Pins where
  rst : Bool
  cmd : Option CmdWord
deriving DecidableEq, Repr

/-- The state. The first twelve fields are the registers of R20, register files as vectors of the spec's lengths (DESIGN
CHOICE, log entry 19); the last three are the model's own (log entries 1, 2
and 4): what the outside world drives at the coming transitions, what the response pins showed at the last one, and
the number of the next reset. The tables `K` and `IV` are not state (R43). -/
structure State where
  /-- `IB[0..54]`, the input buffer (R21). -/
  ib : Vector Byte 55
  /-- `LEN`, the number of input bytes stored (R22). -/
  len : BitVec 6
  /-- `OVF`, more than 55 bytes pushed (R23). -/
  ovf : Bool
  /-- `BLK[0..63]`, the block register (R24). -/
  blk : Vector Byte 64
  /-- `W[0..63]`, the message schedule (R25). -/
  w : Vector Word 64
  /-- `a` to `h`, the working registers (R26). -/
  regs : Working
  /-- `DG[0..7]`, the digest (R27). -/
  dg : Vector Word 8
  /-- `PH`, the phase (R31). -/
  ph : BitVec 3
  /-- `IDX`, the index (R32). -/
  idx : BitVec 6
  /-- `DONE`, digest valid (R34). -/
  done : Bool
  /-- `ERR`, `InputTooLong` raised (R35). -/
  err : Bool
  /-- `ECODE`, the error code (R36). -/
  ecode : Byte
  /-- The pins at the coming transitions, the next one first; after the last one nothing is driven. -/
  inputs : List Pins
  /-- The response of the last transition; `none` when it was no host step (R43, U9). -/
  rsp : Option Response
  /-- The number of the next reset; selects its free datapath values. -/
  resetCount : Nat
deriving DecidableEq, Repr

/-- Why the machine stops. Neither is reachable from reset (R40). -/
inductive Fault where
  /-- Raised by a core turn whose `SEQ` is outside the reachable set, and by `U.EXP i` with `i < 16`: the spec defines
  no core step there (R89, U3: stuck). Safe: the model stops where the spec gives nothing. -/
  | sequencerStuck
  /-- Raised by `U.PAD` with `LEN ≥ 56`, where `pad` is undefined (R120). Safe: the model stops where the spec gives
  nothing. -/
  | padLengthOutOfRange
deriving DecidableEq, Repr

/-- An instruction without a meaning. -/
inductive Refusal where
  /-- Raised by an arm of `exec` whose instruction has no meaning yet; no arm does. Safe. -/
  | notModelled (mnemonic : String)
deriving DecidableEq, Repr

/-- What `IB` holds after reset number `n`, `old` before it: a free value (R42). -/
@[irreducible] def State.freeIB (n : Nat) (old : List Byte) : Vector Byte 55 :=
  Vector.ofFn fun i => Config.resetIB n old i.val

/-- What `BLK` holds after reset number `n`, `old` before it: a free value (R42). -/
@[irreducible] def State.freeBLK (n : Nat) (old : List Byte) : Vector Byte 64 :=
  Vector.ofFn fun i => Config.resetBLK n old i.val

/-- What `W` holds after reset number `n`, `old` before it: a free value (R42). -/
@[irreducible] def State.freeW (n : Nat) (old : List Word) : Vector Word 64 :=
  Vector.ofFn fun i => Config.resetW n old i.val

/-- What `a` to `h` hold after reset number `n`, `old` before it: free values (R42). -/
@[irreducible] def State.freeWorking (n : Nat) (old : List Word) : Working where
  a := Config.resetWorking n old 0
  b := Config.resetWorking n old 1
  c := Config.resetWorking n old 2
  d := Config.resetWorking n old 3
  e := Config.resetWorking n old 4
  f := Config.resetWorking n old 5
  g := Config.resetWorking n old 6
  h := Config.resetWorking n old 7

/-- What `DG` holds after reset number `n`, `old` before it: a free value (R42). -/
@[irreducible] def State.freeDG (n : Nat) (old : List Word) : Vector Word 8 :=
  Vector.ofFn fun i => Config.resetDG n old i.val

/-- The machine right after reset (R42): control registers 0, datapath registers unspecified (the free values of reset
number 0: DESIGN CHOICE, log entry 3), nothing driven from outside. -/
def State.reset : State where
  ib := State.freeIB 0 []
  len := 0
  ovf := false
  blk := State.freeBLK 0 []
  w := State.freeW 0 []
  regs := State.freeWorking 0 []
  dg := State.freeDG 0 []
  ph := 0
  idx := 0
  done := false
  err := false
  ecode := 0x00
  inputs := []
  rsp := none
  resetCount := 1

end Sys2Proof.Machine
end

