-- ==== Sys2Proof/Machine/Flags.lean ====
section
/-! DEFINITION. The flags and what is computed from them: `BUSY` (10_state.md R37), `STATUS` (R38), `zext_8(LEN)` (R39),
the top-level state (R40) and the output pins (R44). All are views, not registers (DEDUCED, log entry 16). -/

namespace Sys2Proof.Machine

/-- `BUSY = 1` when `PH ≠ 0` (R37). -/
def State.busy (s : State) : Bool := decide (s.ph ≠ 0)

/-- `STATUS = {0b0000, OVF, ERR, DONE, BUSY}` (R38, R105). -/
def State.status (s : State) : Byte :=
  (0 : BitVec 4) ++ BitVec.ofBool s.ovf ++ BitVec.ofBool s.err ++ BitVec.ofBool s.done ++ BitVec.ofBool s.busy

/-- `zext_8(LEN)`, the control register read by `RDL` (R39, R106). -/
def State.lenByte (s : State) : Byte := s.len.setWidth 8

/-- The sequencer value `SEQ = {PH, IDX}` (R33). -/
def State.seq (s : State) : SeqWord := s.ph ++ s.idx

/-- The four top-level states of R40. -/
inductive TopState where
  /-- `PH = 0`, `DONE = 0`, `ERR = 0`. -/
  | collect
  /-- `PH ≠ 0`. -/
  | busy
  /-- `PH = 0`, `DONE = 1`. -/
  | done
  /-- `PH = 0`, `DONE = 0`, `ERR = 1`. -/
  | error
deriving DecidableEq, Repr

/-- The top-level state, a function of `PH`, `DONE`, `ERR` (R40). R40 gives it for reachable states only; for the
unreachable flag combinations the order of the tests, `PH` before `DONE` before `ERR`, is the model's (DESIGN CHOICE, log
entry 20). -/
def State.top (s : State) : TopState :=
  if s.ph ≠ 0 then .busy else if s.done then .done else if s.err then .error else .collect

/-- The output pin `busy` (R44, R185). -/
def State.busyOut (s : State) : Bool := s.busy

/-- The output pin `done` (R44, R185). -/
def State.doneOut (s : State) : Bool := s.done

/-- The output pin `err` (R44, R185). -/
def State.errOut (s : State) : Bool := s.err

/-- The three bits on `rsp_code` for a response code (R83). -/
def RspCode.bits : RspCode → BitVec 3
  | .ok => 0
  | .busy => 1
  | .badState => 2
  | .illegal => 3
  | .fail => 4

end Sys2Proof.Machine
end

