-- ==== Sys2Proof/Machine/Arith.lean ====
section
/-! DEFINITION. The arithmetic laws every rule uses: 00_scope.md R6 to R10. -/

namespace Sys2Proof.Machine

/-- Addition mod `2^32` (R6): no carry, no overflow, no trap. -/
def add32 (x y : Word) : Word := x + y

/-- Right rotation by `n` positions (R7), defined there for `1 ≤ n ≤ 31`; outside that range this total definition is
the model's and nothing evaluates it (U8, log entry 10). -/
def rotr (x : Word) (n : Nat) : Word := (x >>> n) ||| (x <<< (32 - n))

/-- Logical right shift (R8): zeros enter at the top. -/
def shr (x : Word) (n : Nat) : Word := x >>> n

/-- The 32-bit complement (R9). -/
def not32 (x : Word) : Word := x ^^^ 0xFFFFFFFF

/-- Big-endian packing of four bytes, `{b0, b1, b2, b3}` (R10). -/
def be32 (b0 b1 b2 b3 : Byte) : Word := b0 ++ b1 ++ b2 ++ b3

/-- `byte_k(w) = w[31-8k : 24-8k]` for `k` in 0 to 3 (R10): `byte_0` is the most significant. -/
def byteOf (k : Nat) (w : Word) : Byte := w.extractLsb' (24 - 8 * k) 8

/-- `be64byte_k(v) = v[63-8k : 56-8k]` for `k` in 0 to 7 (R10). -/
def be64Byte (k : Nat) (v : BitVec 64) : Byte := v.extractLsb' (56 - 8 * k) 8

end Sys2Proof.Machine
end

