-- ==== Sys2Proof/Machine/Operands.lean ====
section
/-! DEFINITION. How instructions reach their operands: the register-file views and writes of 10_state.md R21, R26, R28
and of 20_memory.md R60, R62, R63. -/

namespace Sys2Proof.Machine

/-- The index alias `r[0..7]` of the working registers: `r[0] = a`, ..., `r[7] = h` (R26). -/
def Working.r (x : Working) : Vector Word 8 := #v[x.a, x.b, x.c, x.d, x.e, x.f, x.g, x.h]

/-- `MemWrite(IB, LEN, 1, b)` for `LEN < 55` (R11, R103); there is no element 55, so a larger index writes nothing. -/
def writeIB (ib : Vector Byte 55) (len : BitVec 6) (b : Byte) : Vector Byte 55 := ib.setIfInBounds len.toNat b

/-- The input collected so far, `IB[0 .. LEN-1]` (R21). -/
def State.input (s : State) : List Byte := s.ib.toList.take s.len.toNat

/-- `MemRead(BLK, 4t, 4)`: the big-endian word at byte offset `4t` of a block (R11, R62). -/
def blockWord (blk : Vector Byte 64) (t : Nat) (h : t < 16) : Word :=
  be32 blk[4 * t] blk[4 * t + 1] blk[4 * t + 2] blk[4 * t + 3]

/-- The byte view `DOUT[j] = byte_(j mod 4)(DG[j div 4])` of the digest words (R28, R161). -/
def doutByte (dg : Vector Word 8) (j : BitVec 5) : Byte :=
  byteOf (j.toNat % 4) (dg[j.toNat / 4]'(by have := j.isLt; omega))

/-- All 32 bytes of the view `DOUT` (R28, R161). -/
def serialize (dg : Vector Word 8) : Vector Byte 32 := Vector.ofFn fun j => doutByte dg (BitVec.ofFin j)

end Sys2Proof.Machine
end

