-- ==== Sys2Proof/Machine/Ops.lean ====
section
/-! DEFINITION. The operations the meanings share: answering a command, the rejections (40_host_commands.md R100), the
sequencer write (00_scope.md R11), raising `InputTooLong` (60_exceptions.md R187) and leaving it (R189), and the reset
transition (70_reset_and_hazards.md R210). -/

namespace Sys2Proof.Machine

/-- What a transition of the machine answers. -/
abbrev Result := Host.Outcome State Fault Refusal

/-- `rsp <- (code, data)` (R11, R82). -/
def respond (s : State) (code : RspCode) (data : Byte) : State := { s with rsp := some ⟨code, data⟩ }

/-- The sequencer write `(PH, IDX) <- (p, i)` (R11, R33). -/
def setSeq (s : State) (p : BitVec 3) (i : BitVec 6) : State := { s with ph := p, idx := i }

/-- The answer to an illegal word, in every state: `(ILLEGAL, 0x00)`, no state change (R86, R100 line 1). -/
def rejectIllegal (s : State) : State := respond s .illegal 0x00

/-- R100 line 3: while `PH ≠ 0` the command is answered `(BUSY, 0x00)` and changes nothing. -/
def unlessBusy (s : State) (k : State) : State := if s.ph ≠ 0 then respond s .busy 0x00 else k

/-- R100 line 5: with `DONE = 1` or `ERR = 1` the command is answered `(BADSTATE, 0x00)` and changes nothing. -/
def unlessEnded (s : State) (k : State) : State :=
  if s.done = true ∨ s.err = true then respond s .badState 0x00 else k

/-- R100 line 6: with `DONE = 0` the command is answered `(BADSTATE, 0x00)` and changes nothing. -/
def unlessNoDigest (s : State) (k : State) : State := if s.done = false then respond s .badState 0x00 else k

/-- `raise InputTooLong` (R187): `ERR <- 1; ECODE <- 0x01; rsp <- (FAIL, 0x01)`. Nothing else is written; control goes
nowhere. -/
def raiseInputTooLong (s : State) : State := respond { s with err := true, ecode := 0x01 } .fail 0x01

/-- The return from `ERROR`, and the opening of every invocation (R102, R189): `LEN`, `OVF`, `DONE`, `ERR`, `ECODE`
cleared. Nothing is restored, because nothing was saved. -/
def openInvocation (s : State) : State :=
  { s with len := 0, ovf := false, done := false, err := false, ecode := 0x00 }

/-- The reset transition (R210, R42): control registers to 0, datapath registers unspecified (the free values of this
reset's number, log entry 4), no response. -/
def applyReset (s : State) : State :=
  { s with
    ib := State.freeIB s.resetCount s.ib.toList
    len := 0
    ovf := false
    blk := State.freeBLK s.resetCount s.blk.toList
    w := State.freeW s.resetCount s.w.toList
    regs := State.freeWorking s.resetCount s.regs.r.toList
    dg := State.freeDG s.resetCount s.dg.toList
    ph := 0
    idx := 0
    done := false
    err := false
    ecode := 0x00
    resetCount := s.resetCount + 1 }

/-- The state a transition starts from: the pins of this transition are taken off `inputs`, and the response pins show
no response until a host step writes one (R43, U9; log entries 1, 2). -/
def takeInput (s : State) : State := { s with inputs := s.inputs.tail, rsp := none }

/-- Is the sequencer idle, so that there is no core step (R31, R33)? -/
def State.idle (s : State) : Bool := decide (s.ph = 0 ∧ s.idx = 0)

end Sys2Proof.Machine
end

