-- ==== Sys2Proof/Machine/Padder.lean ====
section
/-! DEFINITION. The padder: the function `pad` (41_padder.md R120) and the micro-operation `U.PAD` (R121). -/

namespace Sys2Proof.Machine

/-- `MAX_IN`: the longest input one block can hold, in bytes (R4). -/
def maxInput : Nat := 55

/-- The 8-byte big-endian length field for an input of `n` bytes: `be64byte_k(8 * n)`, `k` from 0 to 7 (R120). -/
def lengthField (n : Nat) : List Byte := (List.range 8).map fun k => be64Byte k (BitVec.ofNat 64 (8 * n))

/-- The padding as the source words it (R120): the input, one byte `0x80`, zero bytes until 56 bytes have been
accumulated, the bit length. -/
def padBytes (m : List Byte) : List Byte :=
  m ++ [0x80] ++ List.replicate (56 - (m.length + 1)) 0x00 ++ lengthField m.length

theorem padBytes_length (m : List Byte) (h : m.length ≤ maxInput) : (padBytes m).length = 64 := by
  simp only [maxInput] at h
  simp [padBytes, lengthField]
  omega

/-- `pad`, a function on inputs of at most 55 bytes only (R120); undefined for longer ones. -/
def pad (m : List Byte) (h : m.length ≤ maxInput) : Vector Byte 64 :=
  ⟨(padBytes m).toArray, by simpa using padBytes_length m h⟩

/-- Byte `i` of `BLK` as `U.PAD` writes it with `n = LEN` (R121): input, marker, zero run, length field. -/
def padByte (ib : Vector Byte 55) (n : Nat) (i : Nat) : Byte :=
  if h : i < n ∧ i < 55 then ib[i]
  else if i = n then 0x80
  else if i < 56 then 0x00
  else be64Byte (i - 56) (BitVec.ofNat 64 (8 * n))

/-- `U.PAD` (R121): `BLK <- pad(IB[0 .. LEN-1])`, then on to `U.LDW`. For `LEN ≥ 56`, which no run reaches, `pad` is
undefined (R120) and the model stops (log entry 8). -/
def execUPad (s : State) : Result :=
  if s.len.toNat ≤ maxInput then
    .next (setSeq { s with blk := Vector.ofFn fun i => padByte s.ib s.len.toNat i.val } 2 0)
  else .fault .padLengthOutOfRange

end Sys2Proof.Machine
end

