-- ==== Sys2Proof/Machine/Rounds.lean ====
section
/-! DEFINITION. The round engine: the functions `bsig1`, `ch`, `bsig0`, `maj`, `round` (here `oneRound`; 43_rounds.md R140 to R143, R146)
and the micro-operations `U.INI` (R144) and `U.RND` (R145). -/

namespace Sys2Proof.Machine

/-- `bsig1` (R140): three rotations. -/
def bsig1 (x : Word) : Word := rotr x 6 ^^^ rotr x 11 ^^^ rotr x 25

/-- `ch` (R141): bit by bit, `x` chooses between `y` and `z`. -/
def ch (x y z : Word) : Word := (x &&& y) ^^^ (not32 x &&& z)

/-- `bsig0` (R142): three rotations. -/
def bsig0 (x : Word) : Word := rotr x 2 ^^^ rotr x 13 ^^^ rotr x 22

/-- `maj` (R143): bit by bit, the majority of the three. -/
def maj (x y z : Word) : Word := (x &&& y) ^^^ (x &&& z) ^^^ (y &&& z)

/-- `t1` of a round (R145, R146): `add32(h + bsig1(e) + ch(e, f, g) + k + w)`. -/
def roundT1 (x : Working) (k w : Word) : Word :=
  add32 (add32 (add32 (add32 x.h (bsig1 x.e)) (ch x.e x.f x.g)) k) w

/-- `t2` of a round (R145, R146): `add32(bsig0(a) + maj(a, b, c))`. -/
def roundT2 (x : Working) : Word := add32 (bsig0 x.a) (maj x.a x.b x.c)

/-- One compression round (R146): all eight new values are functions of the old ones. -/
def oneRound (x : Working) (k w : Word) : Working where
  a := add32 (roundT1 x k w) (roundT2 x)
  b := x.a
  c := x.b
  d := x.c
  e := add32 x.d (roundT1 x k w)
  f := x.e
  g := x.f
  h := x.g

/-- The working registers as `U.INI` loads them: `IV[0..7]` into `a` to `h` (R30, R144). -/
def initialWorking : Working where
  a := IV[0]
  b := IV[1]
  c := IV[2]
  d := IV[3]
  e := IV[4]
  f := IV[5]
  g := IV[6]
  h := IV[7]

/-- `U.INI` (R144): `a..h <- IV[0..7]`, then on to round 0. -/
def execUIni (s : State) : Result := .next (setSeq { s with regs := initialWorking } 5 0)

/-- `U.RND i` (R145): one round with `K[i]` and `W[i]`, then the next round, after 63 on to `U.FIN`. -/
def execURnd (i : BitVec 6) (s : State) : Result :=
  let s' := { s with regs := oneRound s.regs (K[i.toNat]'i.isLt) (s.w[i.toNat]'i.isLt) }
  .next (if i.toNat < 63 then setSeq s' 5 (i + 1) else setSeq s' 6 0)

end Sys2Proof.Machine
end

