-- ==== Sys2Proof/Machine/Schedule.lean ====
section
/-! DEFINITION. The message-schedule expander: the functions `ssig0`, `ssig1`, `sched` (42_schedule.md R130, R131, R134)
and the micro-operations `U.LDW` (R132) and `U.EXP` (R133). -/

namespace Sys2Proof.Machine

/-- `ssig0` (R130): two rotations and one logical shift. -/
def ssig0 (x : Word) : Word := rotr x 7 ^^^ rotr x 18 ^^^ shr x 3

/-- `ssig1` (R131): two rotations and one logical shift. -/
def ssig1 (x : Word) : Word := rotr x 17 ^^^ rotr x 19 ^^^ shr x 10

/-- The sum of R133 and R134 over the four earlier words `W[i-16]`, `W[i-15]`, `W[i-7]`, `W[i-2]`, in that order. -/
def expandSum (w16 w15 w7 w2 : Word) : Word := add32 (add32 (add32 w16 (ssig0 w15)) w7) (ssig1 w2)

/-- The first `16 + k` words of the schedule of a block, in a single forward pass (R134). -/
def schedPrefix (blk : Vector Byte 64) : Nat → List Word
  | 0 => List.ofFn fun t : Fin 16 => blockWord blk t.val t.isLt
  | k + 1 =>
    let p := schedPrefix blk k
    p ++ [expandSum (p.getD k 0) (p.getD (k + 1) 0) (p.getD (k + 9) 0) (p.getD (k + 14) 0)]

theorem schedPrefix_length (blk : Vector Byte 64) (k : Nat) : (schedPrefix blk k).length = 16 + k := by
  induction k with
  | zero => simp [schedPrefix]
  | succ k ih => simp [schedPrefix, ih]; omega

/-- `sched`: the 64 schedule words of a block (R134). -/
def sched (blk : Vector Byte 64) : Vector Word 64 :=
  ⟨(schedPrefix blk 48).toArray, by simpa using schedPrefix_length blk 48⟩

/-- `W[i]` as `U.EXP i` computes it, from four earlier words of `W` (R133); for `16 ≤ i` no index is cut at 0. -/
def expandWord (w : Vector Word 64) (i : Nat) (h : i < 64) : Word :=
  expandSum w[i - 16] w[i - 15] w[i - 7] w[i - 2]

/-- `U.LDW` (R132): `W[0..15] <-` the big-endian words of `BLK`; `W[16..63]` are not written. -/
def execULdw (s : State) : Result :=
  .next (setSeq
    { s with w := Vector.ofFn fun i => if h : i.val < 16 then blockWord s.blk i.val h else s.w[i.val] } 3 16)

/-- `U.EXP i` (R133): one schedule word from four earlier ones, then the next index, after 63 on to `U.INI`. For
`i < 16` the spec defines no step (R89) and the model stops (log entry 7). -/
def execUExp (i : BitVec 6) (s : State) : Result :=
  if 16 ≤ i.toNat then
    let s' := { s with w := s.w.set i.toNat (expandWord s.w i.toNat i.isLt) i.isLt }
    .next (if i.toNat < 63 then setSeq s' 3 (i + 1) else setSeq s' 4 0)
  else .fault .sequencerStuck

end Sys2Proof.Machine
end

