-- ==== Sys2Proof/Machine/Digest.lean ====
section
/-! DEFINITION. The digest accumulator: the micro-operation `U.FIN` (44_digest.md R160) and the composite functions
`compress` (R162) and `hashOf` (R163), which the machine is compared with and never calls. -/

namespace Sys2Proof.Machine

/-- The eight sums `add32(IV[j] + r[j])` (R160, R162). -/
def accumulate (x : Working) : Vector Word 8 := Vector.ofFn fun j => add32 IV[j] x.r[j]

/-- `U.FIN` (R160): `DG[j] <- add32(IV[j] + r[j])`, `DONE <- 1`, sequencer to idle, all in one step. -/
def execUFin (s : State) : Result :=
  .next (setSeq { s with dg := accumulate s.regs, done := true } 0 0)

/-- `R_n` of R162: the working registers after the first `n` rounds over the schedule `w`. -/
def workingAfter (w : Vector Word 64) : Nat → Working
  | 0 => initialWorking
  | i + 1 => oneRound (workingAfter w i) (K.getD i 0) (w.getD i 0)

/-- `compress` (R162): schedule, 64 rounds, sums, big-endian serialization. -/
def compress (blk : Vector Byte 64) : Vector Byte 32 :=
  serialize (accumulate (workingAfter (sched blk) 64))

/-- The source's single error kind (R163, R180). -/
inductive HashError where
  /-- The input has more than 55 bytes. -/
  | inputTooLong
deriving DecidableEq, Repr

/-- `hash` (R163; here `hashOf`, since Lean has a `hash` of its own): `compress(pad(m))` for at most 55 bytes, else `InputTooLong`. -/
def hashOf (m : List Byte) : Except HashError (Vector Byte 32) :=
  if h : m.length ≤ maxInput then .ok (compress (pad m h)) else .error .inputTooLong

end Sys2Proof.Machine
end

