-- ==== Sys2Proof/Machine/HostCommands.lean ====
section
/-! DEFINITION. The eight host commands: 40_host_commands.md R101 to R108. Each meaning follows its rule's pseudocode,
the rejections first. -/

namespace Sys2Proof.Machine

/-- `NOP` (R101): nothing, `OK` in every state. -/
def execNop (s : State) : Result := .next (respond s .ok 0x00)

/-- `INIT` (R102): opens a new invocation; `BUSY` while the core computes. -/
def execInit (s : State) : Result :=
  .next (unlessBusy s (respond (openInvocation s) .ok 0x00))

/-- `PUSH b` (R103): append `b` while fewer than 55 bytes are stored, else set `OVF`; for an unreachable
`LEN` above 55 as the pseudocode says (DEDUCED, log entry 18). -/
def execPush (b : Byte) (s : State) : Result :=
  .next (unlessBusy s (unlessEnded s (
    if s.len.toNat < 55 then respond { s with ib := writeIB s.ib s.len b, len := s.len + 1 } .ok 0x00
    else respond { s with ovf := true } .ok 0x00)))

/-- `HASH` (R104): start the sequencer, or raise `InputTooLong` when `OVF = 1`. -/
def execHash (s : State) : Result :=
  .next (unlessBusy s (unlessEnded s (
    if s.ovf then raiseInputTooLong s else respond (setSeq s 1 0) .ok 0x00)))

/-- `RDS` (R105): `STATUS`, in every state. -/
def execRds (s : State) : Result := .next (respond s .ok s.status)

/-- `RDL` (R106): `LEN` zero-extended, in every state. -/
def execRdl (s : State) : Result := .next (respond s .ok s.lenByte)

/-- `RDE` (R107): `ECODE`, in every state. -/
def execRde (s : State) : Result := .next (respond s .ok s.ecode)

/-- `RDD j` (R108): the digest byte `DOUT[j]` while a digest exists. -/
def execRdd (j : BitVec 5) (s : State) : Result :=
  .next (unlessBusy s (unlessNoDigest s (respond s .ok (doutByte s.dg j))))

end Sys2Proof.Machine
end

