-- ==== Sys2Proof/Machine/Dispatch.lean ====
section
/-! DEFINITION. One arm per constructor of Instr: the meaning of each instruction. -/

namespace Sys2Proof.Machine

/-- What an instruction does: a host command in a host step, a micro-operation in a core step (00_scope.md R12).
The meaning of a micro-operation does not test `PH`: the step selects it by `PH` (DESIGN CHOICE, log entry 12). -/
def exec (i : Instr) (s : State) : Host.Outcome State Fault Refusal :=
  match i with
  | .nop => Sys2Proof.Machine.execNop s
  | .init => Sys2Proof.Machine.execInit s
  | .push b => Sys2Proof.Machine.execPush b s
  | .hash => Sys2Proof.Machine.execHash s
  | .rds => Sys2Proof.Machine.execRds s
  | .rdl => Sys2Proof.Machine.execRdl s
  | .rde => Sys2Proof.Machine.execRde s
  | .rdd j => Sys2Proof.Machine.execRdd j s
  | .uPad => Sys2Proof.Machine.execUPad s
  | .uLdw => Sys2Proof.Machine.execULdw s
  | .uExp k => Sys2Proof.Machine.execUExp k s
  | .uIni => Sys2Proof.Machine.execUIni s
  | .uRnd k => Sys2Proof.Machine.execURnd k s
  | .uFin => Sys2Proof.Machine.execUFin s

end Sys2Proof.Machine
end

