-- ==== Sys2Proof/Machine/Step.lean ====
section
/-! DEFINITION. One transition of the machine (00_scope.md R12): a host step, a core step or a reset, as the pins of this
transition say. -/

namespace Sys2Proof.Machine

/-- A host step (R12, R100): the presented word is executed, an illegal word is answered `ILLEGAL`. -/
def hostStep (w : CmdWord) (s : State) : Result :=
  match decodeCommand w with
  | .ok i => exec i s
  | .error _ => .next (rejectIllegal s)

/-- A core turn (R12, R33): the micro-operation the sequencer selects; no step when it is idle, which is a
transition that changes nothing (DESIGN CHOICE, log entry 6); stuck when the sequencer selects nothing (R89; DEDUCED,
log entry 7). -/
def coreStep (s : State) : Result :=
  if s.idle then .next s
  else
    match decodeSeq s.seq with
    | .ok i => exec i s
    | .error _ => .fault .sequencerStuck

/-- One transition. The pins of this transition are the first of `inputs`; reset takes precedence over a command
(R210; DEDUCED, log entry 5: the command is then dropped), a command is a host step, and with nothing driven, also
after the end of `inputs`, it is the core's turn (R12, R44; DESIGN CHOICE, log entries 1 and 17). -/
def step (s : State) : Host.Outcome State Fault Refusal :=
  match s.inputs with
  | [] => coreStep (takeInput s)
  | p :: _ =>
    if p.rst then .next (applyReset (takeInput s))
    else
      match p.cmd with
      | some w => hostStep w (takeInput s)
      | none => coreStep (takeInput s)

/-- `s` with an instruction of spec/opcode_table.json placed where the next step takes its instruction from: a command
word on the command port at the next transition; a sequencer value in `PH` and `IDX`, and the next transition the
core's turn (log entry 11). -/
def State.withFetchWord (s : State) (nbits w : Nat) : State :=
  match tableCode nbits w with
  | .cmd16 c => { s with inputs := ⟨false, some c⟩ :: s.inputs }
  | .seq9 q => { s with ph := seqPh q, idx := seqIdx q, inputs := ⟨false, none⟩ :: s.inputs }

end Sys2Proof.Machine
end

