-- ==== Sys2Proof/Safety.lean ====
section
/-! DEFINITION. What claims about the machine are stated in: the invariant of every reachable state (10_state.md R33, R40),
the core steps still owed (70_reset_and_hazards.md R216), and which contents may influence a response (R13, R41). -/

namespace Sys2Proof.Machine

/-- The reachable sequencer values (R33): the 116 of the table and the idle value. -/
def SeqReachable (ph : BitVec 3) (idx : BitVec 6) : Prop :=
  (ph = 0 ∧ idx = 0) ∨ (ph = 1 ∧ idx = 0) ∨ (ph = 2 ∧ idx = 0) ∨ (ph = 3 ∧ 16 ≤ idx.toNat) ∨
    (ph = 4 ∧ idx = 0) ∨ ph = 5 ∨ (ph = 6 ∧ idx = 0)

/-- What holds in every reachable state (R40, and the sequencer values of R33). -/
structure CoreInv (s : State) : Prop where
  seq_reachable : SeqReachable s.ph s.idx
  len_le : s.len.toNat ≤ 55
  ovf_len : s.ovf = true → s.len.toNat = 55
  computing : s.ph ≠ 0 → s.done = false ∧ s.err = false ∧ s.ovf = false
  not_both : ¬ (s.done = true ∧ s.err = true)
  done_ovf : s.done = true → s.ovf = false
  err_ovf : s.err = true → s.ovf = true
  err_ecode : s.err = true ↔ s.ecode = 0x01
  ecode_range : s.ecode = 0x00 ∨ s.ecode = 0x01

/-- The pins of the next transition: the first of `inputs`, or nothing driven. -/
def State.pins (s : State) : Pins := s.inputs.headD ⟨false, none⟩

/-- The next transition is the core's turn: neither reset nor a command is driven (R12). -/
def State.coreTurn (s : State) : Prop := s.pins = ⟨false, none⟩

/-- The next transition is a host step presenting the word `w` (R12). -/
def State.hostTurn (s : State) (w : CmdWord) : Prop := s.pins = ⟨false, some w⟩

/-- The core steps an invocation still owes, from the table of R33: 116 when `U.PAD` is next, 0 when idle. -/
def State.owed (s : State) : Nat :=
  match s.ph.toNat with
  | 1 => 116
  | 2 => 115
  | 3 => (64 - s.idx.toNat) + 66
  | 4 => 66
  | 5 => (64 - s.idx.toNat) + 1
  | 6 => 1
  | _ => 0

/-- The two states agree on everything that may influence a response from here on (R41): the control registers, the
input bytes below `LEN`, and of the datapath what the running invocation has written and still reads. -/
structure Agree (s t : State) : Prop where
  inputs : s.inputs = t.inputs
  rsp : s.rsp = t.rsp
  len : s.len = t.len
  ovf : s.ovf = t.ovf
  ph : s.ph = t.ph
  idx : s.idx = t.idx
  done : s.done = t.done
  err : s.err = t.err
  ecode : s.ecode = t.ecode
  ib : ∀ (k : Nat) (h : k < 55), k < s.len.toNat → s.ib[k] = t.ib[k]
  blk : s.ph = 2 → s.blk = t.blk
  w_below : s.ph = 3 → ∀ (k : Nat) (h : k < 64), k < s.idx.toNat → s.w[k] = t.w[k]
  w_all : s.ph = 4 ∨ s.ph = 5 → s.w = t.w
  regs : s.ph = 5 ∨ s.ph = 6 → s.regs = t.regs
  dg : s.done = true → s.dg = t.dg

/-- `k` transitions, stopping at a fault or a refusal. -/
def State.run (k : Nat) (s : State) : Result := Host.Core.run core k s

/-- The pins of a command presented by the host. -/
def present (w : CmdWord) : Pins := ⟨false, some w⟩

/-- The pins of a core turn. -/
def coreTurnPins : Pins := ⟨false, none⟩

/-- The illegal command words (R86). -/
def IllegalWord (w : CmdWord) : Prop :=
  6 ≤ (cmdOp w).toNat ∨
    ((cmdOp w = 0x00 ∨ cmdOp w = 0x01 ∨ cmdOp w = 0x03) ∧ cmdImm w ≠ 0x00) ∨
    (cmdOp w = 0x04 ∧ 3 ≤ (cmdImm w).toNat) ∨
    (cmdOp w = 0x05 ∧ 0x20 ≤ (cmdImm w).toNat)

end Sys2Proof.Machine
end

