-- ==== Sys2Proof/Certificates/Slice0/Obligations.lean ====
section
/-! DEFINITION. The statements for the provers, from the numbered rules of spec/. In the statements about a transition,
`State.hostTurn s w` says that the next transition is a host step presenting `w`, `State.coreTurn s` that it is the
core's turn, and `s.pins.rst = true` that it is a reset. -/

open Sys2Proof
open Sys2Proof.Machine

/-! ## Encoding -/

/-- R84: each of the eight patterns selects its command, `(cmd and mask) = match`, with the operand bits of R85; the
legal words are 294. -/
def Obligations.CommandPatternsSelect : Prop :=
  (∀ w : CmdWord,
    (decodeCommand w = .ok .nop ↔ w &&& 0xFFFF = 0x0000) ∧
    (decodeCommand w = .ok .init ↔ w &&& 0xFFFF = 0x0100) ∧
    (∀ b, decodeCommand w = .ok (.push b) ↔ w &&& 0xFF00 = 0x0200 ∧ b = w.extractLsb' 0 8) ∧
    (decodeCommand w = .ok .hash ↔ w &&& 0xFFFF = 0x0300) ∧
    (decodeCommand w = .ok .rds ↔ w &&& 0xFFFF = 0x0400) ∧
    (decodeCommand w = .ok .rdl ↔ w &&& 0xFFFF = 0x0401) ∧
    (decodeCommand w = .ok .rde ↔ w &&& 0xFFFF = 0x0402) ∧
    (∀ j, decodeCommand w = .ok (.rdd j) ↔ w &&& 0xFFE0 = 0x0500 ∧ j = w.extractLsb' 0 5)) ∧
  (∀ w i, decodeCommand w = .ok i → i.isCommand = true) ∧
  ∃ l : List CmdWord, l.Nodup ∧ l.length = 294 ∧ ∀ w, w ∈ l ↔ ∃ i, decodeCommand w = .ok i

/-- Words written out from R84 and R88, one for each instruction, decode to it; three reserved words do not. -/
def Obligations.WrittenOutWordsDecode : Prop :=
  decodeCommand 0b0000000000000000 = .ok .nop ∧
  decodeCommand 0b0000000100000000 = .ok .init ∧
  decodeCommand 0b0000001010100101 = .ok (.push 0b10100101) ∧
  decodeCommand 0b0000001100000000 = .ok .hash ∧
  decodeCommand 0b0000010000000000 = .ok .rds ∧
  decodeCommand 0b0000010000000001 = .ok .rdl ∧
  decodeCommand 0b0000010000000010 = .ok .rde ∧
  decodeCommand 0b0000010100010110 = .ok (.rdd 0b10110) ∧
  decodeSeq 0b001000000 = .ok .uPad ∧
  decodeSeq 0b010000000 = .ok .uLdw ∧
  decodeSeq 0b011010011 = .ok (.uExp 0b010011) ∧
  decodeSeq 0b100000000 = .ok .uIni ∧
  decodeSeq 0b101110001 = .ok (.uRnd 0b110001) ∧
  decodeSeq 0b110000000 = .ok .uFin ∧
  decodeCommand 0b0000010000000011 = .error (.illegalCommand 0x0403) ∧
  decodeCommand 0b0000010100100000 = .error (.illegalCommand 0x0520) ∧
  decodeSeq 0b111000000 = .error (.noMicroOp 0x1C0)

/-- R86: which words are illegal, and that in every state a host step with such a word answers `(ILLEGAL, 0x00)` and
changes nothing. -/
def Obligations.IllegalWordsAnsweredIllegal : Prop :=
  (∀ w : CmdWord, (∃ e, decodeCommand w = .error e) ↔ IllegalWord w) ∧
  ∀ (s : State) (w : CmdWord), IllegalWord w → hostStep w s = .next { s with rsp := some ⟨.illegal, 0x00⟩ }

/-- Encoding and decoding are inverse to each other, for every instruction, operand and code: for command words this is
R92 over the patterns of R84, for sequencer values the same of the table of R88. In `SEQ9` it rests on log entry 13, the
model's reading of R88 and R89: a phase without operand selects its micro-operation with `IDX = 0` only, although the mask
tests `PH` alone, and `U.EXP i` with `i < 16` decodes, as an ill-formed instruction. -/
def Obligations.DecodeInvertsEncode : Prop :=
  ∀ (i : Instr) (c : Code), encode i = c ↔ decode c = .ok i

/-- R88: the match and mask of each micro-operation, with its operand. -/
def Obligations.MicroOpPatternsSelect : Prop :=
  ∀ q : SeqWord,
    (decodeSeq q = .ok .uPad ↔ q = 0x040) ∧
    (decodeSeq q = .ok .uLdw ↔ q = 0x080) ∧
    (∀ i : BitVec 6, 16 ≤ i.toNat →
      (decodeSeq q = .ok (.uExp i) ↔ q &&& 0x1C0 = 0x0C0 ∧ i = q.extractLsb' 0 6)) ∧
    (decodeSeq q = .ok .uIni ↔ q = 0x100) ∧
    (∀ i : BitVec 6, decodeSeq q = .ok (.uRnd i) ↔ q &&& 0x1C0 = 0x140 ∧ i = q.extractLsb' 0 6) ∧
    (decodeSeq q = .ok .uFin ↔ q = 0x180) ∧
    (q &&& 0x1C0 = 0x000 → ∀ i, decodeSeq q ≠ .ok i) ∧
    (q &&& 0x1C0 = 0x1C0 → ∀ i, decodeSeq q ≠ .ok i)

/-! ## The step -/

/-- A step runs the decoded instruction: a presented word's in a host step, the sequencer's in a core turn; a word that
is no instruction is answered `ILLEGAL`. Around it the step takes the pins of the transition off `inputs` and clears the
response pins: the model's choice, log entries 1 and 2. -/
def Obligations.StepRunsDecodedInstruction : Prop :=
  (∀ (s : State) (w : CmdWord) (i : Instr), State.hostTurn s w → decodeCommand w = .ok i →
    step s = exec i { s with inputs := s.inputs.tail, rsp := none } ∧
    hostStep w { s with inputs := s.inputs.tail, rsp := none } =
      exec i { s with inputs := s.inputs.tail, rsp := none }) ∧
  (∀ (s : State) (w : CmdWord) (e : DecodeError), State.hostTurn s w → decodeCommand w = .error e →
    step s = .next { s with inputs := s.inputs.tail, rsp := some ⟨.illegal, 0x00⟩ }) ∧
  (∀ (s : State) (i : Instr), State.coreTurn s → decodeSeq s.seq = .ok i → i.wf = true →
    step s = exec i { s with inputs := s.inputs.tail, rsp := none })

/-- With `PH = 0` and `IDX = 0` there is no core step (R12, R33): a core turn leaves every register. That such a turn is
a transition at all is the model's choice, log entry 6. -/
def Obligations.IdleCoreTurnChangesNothing : Prop :=
  ∀ s : State, State.coreTurn s → s.ph = 0 → s.idx = 0 →
    step s = .next { s with inputs := s.inputs.tail, rsp := none }

/-- R89: a core turn with a sequencer value outside the reachable set has no step, and so has `U.EXP i` with `i < 16`.
The name of the stop is the model's, log entry 7. -/
def Obligations.UnreachableSequencerStuck : Prop :=
  (∀ s : State, State.coreTurn s → ¬ SeqReachable s.ph s.idx → step s = .fault .sequencerStuck) ∧
  ∀ (s : State) (i : BitVec 6), i.toNat < 16 → exec (.uExp i) s = .fault .sequencerStuck

/-- `pad` is undefined for 56 bytes and more (R120), and `U.PAD` stops there by name: the model's choice, log
entry 8. -/
def Obligations.PadStopsBeyondMaxInput : Prop :=
  ∀ s : State, 56 ≤ s.len.toNat → exec .uPad s = .fault .padLengthOutOfRange

/-- R210: reset, in any state and whatever command is offered beside it, writes the control registers and leads to
`COLLECT` with an empty input. -/
def Obligations.ResetClearsControl : Prop :=
  ∀ s : State, s.pins.rst = true →
    ∃ t, step s = .next t ∧ t.ph = 0 ∧ t.idx = 0 ∧ t.len = 0 ∧ t.ovf = false ∧ t.done = false ∧ t.err = false ∧
      t.ecode = 0x00 ∧ t.status = 0x00 ∧ t.top = .collect ∧ t.input = [] ∧
      t.busyOut = false ∧ t.doneOut = false ∧ t.errOut = false

/-- R42: the control registers after reset. -/
def Obligations.ResetStateValues : Prop :=
  State.reset.ph = 0 ∧ State.reset.idx = 0 ∧ State.reset.len = 0 ∧ State.reset.ovf = false ∧
  State.reset.done = false ∧ State.reset.err = false ∧ State.reset.ecode = 0x00 ∧ State.reset.status = 0x00 ∧
  State.reset.top = .collect ∧ State.reset.input = [] ∧
  State.reset.busyOut = false ∧ State.reset.doneOut = false ∧ State.reset.errOut = false

/-! ## Host commands -/

/-- R101. -/
def Obligations.NopAnswersOk : Prop :=
  ∀ s : State, exec .nop s = .next { s with rsp := some ⟨.ok, 0x00⟩ }

/-- R102. -/
def Obligations.InitOpensInvocation : Prop :=
  ∀ s : State,
    exec .init s = .next
      (if s.ph ≠ 0 then { s with rsp := some ⟨.busy, 0x00⟩ }
      else { s with len := 0, ovf := false, done := false, err := false, ecode := 0x00, rsp := some ⟨.ok, 0x00⟩ })

/-- R103. -/
def Obligations.PushAppendsByte : Prop :=
  ∀ (s : State) (b : Byte),
    exec (.push b) s = .next
      (if s.ph ≠ 0 then { s with rsp := some ⟨.busy, 0x00⟩ }
      else if s.done = true ∨ s.err = true then { s with rsp := some ⟨.badState, 0x00⟩ }
      else if h : s.len.toNat < 55 then
        { s with ib := s.ib.set s.len.toNat b h, len := s.len + 1, rsp := some ⟨.ok, 0x00⟩ }
      else { s with ovf := true, rsp := some ⟨.ok, 0x00⟩ })

/-- R104. -/
def Obligations.HashStartsOrRaises : Prop :=
  ∀ s : State,
    exec .hash s = .next
      (if s.ph ≠ 0 then { s with rsp := some ⟨.busy, 0x00⟩ }
      else if s.done = true ∨ s.err = true then { s with rsp := some ⟨.badState, 0x00⟩ }
      else if s.ovf = true then { s with err := true, ecode := 0x01, rsp := some ⟨.fail, 0x01⟩ }
      else { s with ph := 1, idx := 0, rsp := some ⟨.ok, 0x00⟩ })

/-- R105: the bits of the byte read, and the values it takes in reachable states. -/
def Obligations.RdsReadsStatus : Prop :=
  ∀ s : State, ∃ d : Byte,
    exec .rds s = .next { s with rsp := some ⟨.ok, d⟩ } ∧
    (d.getLsbD 0 = true ↔ s.ph ≠ 0) ∧ d.getLsbD 1 = s.done ∧ d.getLsbD 2 = s.err ∧ d.getLsbD 3 = s.ovf ∧
    d.extractLsb' 4 4 = 0 ∧
    (CoreInv s → (d = 0x00 ∨ d = 0x08 ∨ d = 0x01 ∨ d = 0x02 ∨ d = 0x0C) ∧ (s.ph ≠ 0 → d = 0x01))

/-- R106: `LEN` zero-extended, and its range in reachable states. -/
def Obligations.RdlReadsLength : Prop :=
  ∀ s : State, ∃ d : Byte,
    exec .rdl s = .next { s with rsp := some ⟨.ok, d⟩ } ∧ d.toNat = s.len.toNat ∧
    (CoreInv s → d.toNat ≤ 0x37 ∧ (s.ovf = true → d = 0x37))

/-- R107: `ECODE`; in reachable states `0x01` exactly in `ERROR`, else `0x00`, so `0x00` while `BUSY`. -/
def Obligations.RdeReadsErrorCode : Prop :=
  ∀ s : State, exec .rde s = .next { s with rsp := some ⟨.ok, s.ecode⟩ } ∧
    (CoreInv s → (s.ecode = 0x00 ∨ s.ecode = 0x01) ∧ (s.ecode = 0x01 ↔ s.top = .error) ∧ (s.ph ≠ 0 → s.ecode = 0x00))

/-- R108: bits `31 - 8*(j mod 4)` down to `24 - 8*(j mod 4)` of `DG[j div 4]`, only in `DONE`. -/
def Obligations.RddReadsDigestByte : Prop :=
  ∀ (s : State) (j : BitVec 5),
    exec (.rdd j) s = .next
      (if s.ph ≠ 0 then { s with rsp := some ⟨.busy, 0x00⟩ }
      else if s.done = false then { s with rsp := some ⟨.badState, 0x00⟩ }
      else { s with rsp := some ⟨.ok,
        (s.dg[j.toNat / 4]'(by have := j.isLt; omega)).extractLsb' (24 - 8 * (j.toNat % 4)) 8⟩ })

/-- R28: word `q`, byte `k` of the digest is byte `4q + k` of the view, most significant byte first. -/
def Obligations.DigestViewBigEndian : Prop :=
  ∀ (dg : Vector Word 8) (q k : Nat) (hq : q < 8) (hk : k < 4) (hj : 4 * q + k < 32),
    (serialize dg)[4 * q + k] = dg[q].extractLsb' (24 - 8 * k) 8 ∧
    doutByte dg (BitVec.ofNat 5 (4 * q + k)) = dg[q].extractLsb' (24 - 8 * k) 8 ∧
    (serialize dg)[4 * q + k].toNat = dg[q].toNat / 2 ^ (8 * (3 - k)) % 256

/-- R100, R186: the response code of a host step by the priority `ILLEGAL`, `BUSY`, `BADSTATE`, `FAIL`, `OK`. -/
def Obligations.ResponsePriority : Prop :=
  ∀ (s : State) (w : CmdWord), ∃ t r, hostStep w s = .next t ∧ t.rsp = some r ∧
    (IllegalWord w → r.code = .illegal) ∧
    (¬ IllegalWord w → w ∈ [0x0000, 0x0400, 0x0401, 0x0402] → r.code = .ok) ∧
    (¬ IllegalWord w → w ∉ [0x0000, 0x0400, 0x0401, 0x0402] →
      (s.ph ≠ 0 → r.code = .busy) ∧
      (s.ph = 0 → w = 0x0100 → r.code = .ok) ∧
      (s.ph = 0 → (cmdOp w = 0x02 ∨ cmdOp w = 0x03) → (s.done = true ∨ s.err = true) → r.code = .badState) ∧
      (s.ph = 0 → cmdOp w = 0x05 → r.code = if s.done = true then .ok else .badState) ∧
      (s.ph = 0 → s.done = false → s.err = false → cmdOp w = 0x02 → r.code = .ok) ∧
      (s.ph = 0 → s.done = false → s.err = false → cmdOp w = 0x03 →
        r.code = if s.ovf = true then .fail else .ok))

/-- R82, R83: the numbers of the five response codes; every host step produces one response with one of them, so that
5, 6, 7 are never produced; its data byte is `0x00` but for an `OK` of
the four reads and for the `FAIL` of `HASH`; a transition that is no host step shows no response (log entry 2). -/
def Obligations.ResponseCodesAndData : Prop :=
  (RspCode.ok.bits = 0 ∧ RspCode.busy.bits = 1 ∧ RspCode.badState.bits = 2 ∧ RspCode.illegal.bits = 3 ∧
    RspCode.fail.bits = 4) ∧
  (∀ (s : State) (w : CmdWord), ∃ t r, hostStep w s = .next t ∧ t.rsp = some r ∧ r.code.bits.toNat ≤ 4 ∧
    (r.data ≠ 0x00 →
      (r.code = .ok ∧ (w = 0x0400 ∨ w = 0x0401 ∨ w = 0x0402 ∨ cmdOp w = 0x05)) ∨
      (r.code = .fail ∧ w = 0x0300 ∧ r.data = 0x01)) ∧
    (r.code = .fail → r.data = 0x01)) ∧
  ∀ s t : State, State.coreTurn s ∨ s.pins.rst = true → step s = .next t → t.rsp = none

/-- R183: a step answered `BUSY`, `BADSTATE` or `ILLEGAL` changes nothing but the response pins, and its data byte is
`0x00`. -/
def Obligations.RejectionsChangeNothing : Prop :=
  ∀ (s t : State) (w : CmdWord) (r : Response), hostStep w s = .next t → t.rsp = some r →
    (r.code = .busy ∨ r.code = .badState ∨ r.code = .illegal) →
    r.data = 0x00 ∧ t = { s with rsp := some r }

/-- R110: the acceptance matrix in every reachable state, and the only ways out of `BUSY`, `DONE` and `ERROR`. -/
def Obligations.AcceptanceMatrix : Prop :=
  ∀ s : State, CoreInv s →
    (s.top = .collect →
      exec .rds s = .next { s with rsp := some ⟨.ok, if s.ovf then 0x08 else 0x00⟩ } ∧
      exec .rdl s = .next { s with rsp := some ⟨.ok, s.len.setWidth 8⟩ } ∧
      exec .rde s = .next { s with rsp := some ⟨.ok, 0x00⟩ } ∧
      (∃ t, exec .init s = .next t ∧ t.rsp = some ⟨.ok, 0x00⟩ ∧ t.top = .collect ∧ t.len = 0 ∧ t.ovf = false) ∧
      (∀ b, ∃ t, exec (.push b) s = .next t ∧ t.rsp = some ⟨.ok, 0x00⟩ ∧ t.top = .collect ∧
        (t.len.toNat = s.len.toNat + 1 ∨ t.ovf = true)) ∧
      (∃ t, exec .hash s = .next t ∧
        (s.ovf = false → t.rsp = some ⟨.ok, 0x00⟩ ∧ t.top = .busy) ∧
        (s.ovf = true → t.rsp = some ⟨.fail, 0x01⟩ ∧ t.top = .error)) ∧
      (∀ j, exec (.rdd j) s = .next { s with rsp := some ⟨.badState, 0x00⟩ })) ∧
    (s.top = .busy →
      exec .rds s = .next { s with rsp := some ⟨.ok, 0x01⟩ } ∧
      exec .rdl s = .next { s with rsp := some ⟨.ok, s.len.setWidth 8⟩ } ∧
      exec .rde s = .next { s with rsp := some ⟨.ok, 0x00⟩ } ∧
      ∀ i, (i = .init ∨ i = .hash ∨ (∃ b, i = .push b) ∨ ∃ j, i = .rdd j) →
        exec i s = .next { s with rsp := some ⟨.busy, 0x00⟩ }) ∧
    (s.top = .done →
      exec .rds s = .next { s with rsp := some ⟨.ok, 0x02⟩ } ∧
      exec .rdl s = .next { s with rsp := some ⟨.ok, s.len.setWidth 8⟩ } ∧
      exec .rde s = .next { s with rsp := some ⟨.ok, 0x00⟩ } ∧
      (∃ t, exec .init s = .next t ∧ t.rsp = some ⟨.ok, 0x00⟩ ∧ t.top = .collect) ∧
      (∀ b, exec (.push b) s = .next { s with rsp := some ⟨.badState, 0x00⟩ }) ∧
      exec .hash s = .next { s with rsp := some ⟨.badState, 0x00⟩ } ∧
      ∀ j, exec (.rdd j) s = .next { s with rsp := some ⟨.ok, doutByte s.dg j⟩ }) ∧
    (s.top = .error →
      exec .rds s = .next { s with rsp := some ⟨.ok, 0x0C⟩ } ∧
      exec .rdl s = .next { s with rsp := some ⟨.ok, 0x37⟩ } ∧
      exec .rde s = .next { s with rsp := some ⟨.ok, 0x01⟩ } ∧
      (∃ t, exec .init s = .next t ∧ t.rsp = some ⟨.ok, 0x00⟩ ∧ t.top = .collect) ∧
      (∀ b, exec (.push b) s = .next { s with rsp := some ⟨.badState, 0x00⟩ }) ∧
      exec .hash s = .next { s with rsp := some ⟨.badState, 0x00⟩ } ∧
      ∀ j, exec (.rdd j) s = .next { s with rsp := some ⟨.badState, 0x00⟩ }) ∧
    exec .nop s = .next { s with rsp := some ⟨.ok, 0x00⟩ } ∧
    (∀ w, IllegalWord w → hostStep w s = .next { s with rsp := some ⟨.illegal, 0x00⟩ }) ∧
    (∀ t, step s = .next t → s.pins.rst = false → t.top ≠ s.top →
      (s.top = .busy → State.coreTurn s ∧ s.ph = 6 ∧ t.top = .done) ∧
      (s.top = .done ∨ s.top = .error → State.hostTurn s 0x0100))

/-- The frame of the eight host commands: what each leaves unchanged. The byte `PUSH` stores goes to the index
`s.len.toNat`, and only when it is below 55. -/
def Obligations.HostCommandFrame : Prop :=
  ∀ (i : Instr) (s t : State), i.isCommand = true → exec i s = .next t →
    t.blk = s.blk ∧ t.w = s.w ∧ t.regs = s.regs ∧ t.dg = s.dg ∧ t.inputs = s.inputs ∧
    t.resetCount = s.resetCount ∧
    (∀ (k : Nat) (h : k < 55), k ≠ s.len.toNat → t.ib[k] = s.ib[k]) ∧
    ((∀ b, i ≠ .push b) → t.ib = s.ib ∧ (i ≠ .init → t.len = s.len ∧ t.ovf = s.ovf)) ∧
    (i ≠ .init → t.done = s.done) ∧
    (i ≠ .init → i ≠ .hash → t.err = s.err ∧ t.ecode = s.ecode) ∧
    (i ≠ .hash → t.ph = s.ph ∧ t.idx = s.idx)

/-- R67: the four reads change nothing but the response pins, and repeated they answer the same. -/
def Obligations.ReadsHaveNoSideEffect : Prop :=
  ∀ (i : Instr) (s t : State), (i = .rds ∨ i = .rdl ∨ i = .rde ∨ ∃ j, i = .rdd j) → exec i s = .next t →
    t = { s with rsp := t.rsp } ∧ exec i t = .next t

/-- R185, R38: the outputs `busy`, `done`, `err` equal `STATUS[0]`, `STATUS[1]`, `STATUS[2]` in every state, and in
reachable ones `done` and `err` are never high together. -/
def Obligations.OutputsEqualStatusBits : Prop :=
  ∀ s : State, s.busyOut = s.status.getLsbD 0 ∧ s.doneOut = s.status.getLsbD 1 ∧ s.errOut = s.status.getLsbD 2 ∧
    (CoreInv s → ¬ (s.doneOut = true ∧ s.errOut = true))

/-- R211: `INIT` and reset leave states that no later response can tell apart. -/
def Obligations.InitLeavesWhatResetLeaves : Prop :=
  ∀ s t : State, CoreInv s → s.ph = 0 → exec .init s = .next t →
    Agree { t with rsp := none } (applyReset { s with rsp := none })

/-! ## The exception -/

/-- R187: raising `InputTooLong` writes `ERR`, `ECODE` and the response and nothing else, and leaves the core in `ERROR`
with `STATUS = 0x0C` and `err` high. -/
def Obligations.InputTooLongEntry : Prop :=
  ∀ s : State, s.ph = 0 → s.done = false → s.err = false → s.ovf = true →
    ∃ t, exec .hash s = .next t ∧ t = { s with err := true, ecode := 0x01, rsp := some ⟨.fail, 0x01⟩ } ∧
      t.top = .error ∧ t.status = 0x0C ∧ t.errOut = true

/-- R189, R190: in `ERROR` only `INIT` or reset leaves; no other transition changes the error or starts anything. With
nothing driven the spec enables no step there; the next state claimed is the model's choice, log entry 6. -/
def Obligations.ErrorLeftByInitOnly : Prop :=
  ∀ s : State, CoreInv s → s.top = .error → s.pins.rst = false →
    (State.hostTurn s 0x0100 → ∃ t, step s = .next t ∧ t.err = false ∧ t.ecode = 0x00 ∧ t.ovf = false ∧ t.len = 0 ∧
      t.done = false ∧ t.top = .collect ∧ t.input = []) ∧
    (¬ State.hostTurn s 0x0100 → ∃ t, step s = .next t ∧
      t = { s with inputs := s.inputs.tail, rsp := t.rsp } ∧ t.rsp ≠ some ⟨.fail, 0x01⟩)

/-! ## Micro-operations -/

/-- R121: `U.PAD` for every length it can meet. -/
def Obligations.UPadBuildsBlock : Prop :=
  ∀ s : State, s.len.toNat ≤ 55 →
    ∃ t, exec .uPad s = .next t ∧ t = { s with blk := t.blk, ph := 2, idx := 0 } ∧
      (∀ (i : Nat) (h : i < 55), i < s.len.toNat → t.blk[i] = s.ib[i]) ∧
      (∀ h : s.len.toNat < 64, t.blk[s.len.toNat] = 0x80) ∧
      (∀ (i : Nat) (h : i < 56), s.len.toNat < i → t.blk[i] = 0x00) ∧
      (∀ (k : Nat) (h : k < 8),
        t.blk[56 + k] = (BitVec.ofNat 64 (8 * s.len.toNat)).extractLsb' (56 - 8 * k) 8) ∧
      ∀ h : s.input.length ≤ maxInput, t.blk = pad s.input h

/-- R120: the four index ranges of `pad`. -/
def Obligations.PadByRanges : Prop :=
  ∀ (m : List Byte) (hm : m.length ≤ maxInput),
    (∀ (i : Nat) (h : i < m.length) (h' : i < 64), (pad m hm)[i] = m[i]) ∧
    (∀ h : m.length < 64, (pad m hm)[m.length] = 0x80) ∧
    (∀ (i : Nat) (h : i < 56), m.length < i → (pad m hm)[i] = 0x00) ∧
    (∀ (k : Nat) (h : k < 8),
      (pad m hm)[56 + k] = (BitVec.ofNat 64 (8 * m.length)).extractLsb' (56 - 8 * k) 8)

/-- R122: the properties of `pad`. -/
def Obligations.PadProperties : Prop :=
  ∀ (m : List Byte) (hm : m.length ≤ maxInput),
    (pad m hm).toList.length = 64 ∧
    (((pad m hm).toList.drop 56).foldl (fun acc b => acc * 256 + b.toNat) 0 = 8 * m.length) ∧
    ((∀ (i : Nat) (h : i < 62), 56 ≤ i → (pad m hm)[i] = 0x00) ∧
      (pad m hm)[62] = (if 32 ≤ m.length then 0x01 else 0x00) ∧
      (pad m hm)[62].toNat = 8 * m.length / 256 ∧ (pad m hm)[63].toNat = 8 * m.length % 256) ∧
    (((pad m hm).toList.drop (m.length + 1)).take (55 - m.length) = List.replicate (55 - m.length) 0x00) ∧
    (∀ (m' : List Byte) (hm' : m'.length ≤ maxInput), pad m hm = pad m' hm' → m = m') ∧
    ((∀ h : m.length < 64, (pad m hm)[m.length] = 0x80) ∧
      ∀ (i : Nat) (h : i < 56), m.length < i → (pad m hm)[i] = 0x00)

/-- R132. -/
def Obligations.ULdwLoadsBlock : Prop :=
  ∀ s : State, ∃ t, exec .uLdw s = .next t ∧ t = { s with w := t.w, ph := 3, idx := 16 } ∧
    (∀ (k : Nat) (h : k < 16), t.w[k].toNat =
      s.blk[4 * k].toNat * 2 ^ 24 + s.blk[4 * k + 1].toNat * 2 ^ 16 + s.blk[4 * k + 2].toNat * 2 ^ 8 +
        s.blk[4 * k + 3].toNat) ∧
    (∀ (k : Nat) (h : k < 64), 16 ≤ k → t.w[k] = s.w[k])

/-- R133. -/
def Obligations.UExpExpandsWord : Prop :=
  ∀ (s : State) (i : BitVec 6) (hi : i.toNat < 64), 16 ≤ i.toNat →
    ∃ t, exec (.uExp i) s = .next t ∧ t = { s with w := t.w, ph := t.ph, idx := t.idx } ∧
      t.w[i.toNat].toNat = (s.w[i.toNat - 16].toNat + (ssig0 s.w[i.toNat - 15]).toNat + s.w[i.toNat - 7].toNat +
        (ssig1 s.w[i.toNat - 2]).toNat) % 2 ^ 32 ∧
      (∀ (k : Nat) (h : k < 64), k ≠ i.toNat → t.w[k] = s.w[k]) ∧
      (i.toNat < 63 → t.ph = 3 ∧ t.idx.toNat = i.toNat + 1) ∧
      (i.toNat = 63 → t.ph = 4 ∧ t.idx = 0)

/-- R134: the recurrence of `sched`, and that `U.LDW` with the 48 `U.EXP` steps computes it, when nothing is driven
from outside. -/
def Obligations.ScheduleComputesSched : Prop :=
  (∀ (B : Vector Byte 64),
    (∀ (k : Nat) (h : k < 16), (sched B)[k] = be32 B[4 * k] B[4 * k + 1] B[4 * k + 2] B[4 * k + 3]) ∧
    (∀ (i : Nat) (h : i < 64), 16 ≤ i →
      (sched B)[i].toNat = ((sched B)[i - 16].toNat + (ssig0 (sched B)[i - 15]).toNat + (sched B)[i - 7].toNat +
        (ssig1 (sched B)[i - 2]).toNat) % 2 ^ 32)) ∧
  ∀ s : State, s.inputs = [] → s.ph = 2 → s.idx = 0 →
    ∃ t, State.run 49 s = .next t ∧ t = { s with w := sched s.blk, ph := 4, idx := 0, rsp := none }

/-- R144. -/
def Obligations.UIniSeedsRegisters : Prop :=
  ∀ s : State, exec .uIni s = .next { s with
    regs := ⟨0x6a09e667, 0xbb67ae85, 0x3c6ef372, 0xa54ff53a, 0x510e527f, 0x9b05688c, 0x1f83d9ab, 0x5be0cd19⟩,
    ph := 5, idx := 0 }

/-- R145, R146: one round, the sums written out over natural numbers and reduced once. -/
def Obligations.URndRunsRound : Prop :=
  ∀ (s : State) (i : BitVec 6) (hi : i.toNat < 64),
    ∃ t, exec (.uRnd i) s = .next t ∧ t = { s with regs := t.regs, ph := t.ph, idx := t.idx } ∧
      (let t1 := s.regs.h.toNat + (bsig1 s.regs.e).toNat + (ch s.regs.e s.regs.f s.regs.g).toNat + K[i.toNat].toNat +
          s.w[i.toNat].toNat
       let t2 := (bsig0 s.regs.a).toNat + (maj s.regs.a s.regs.b s.regs.c).toNat
       t.regs.a.toNat = (t1 + t2) % 2 ^ 32 ∧ t.regs.e.toNat = (s.regs.d.toNat + t1) % 2 ^ 32) ∧
      t.regs.b = s.regs.a ∧ t.regs.c = s.regs.b ∧ t.regs.d = s.regs.c ∧
      t.regs.f = s.regs.e ∧ t.regs.g = s.regs.f ∧ t.regs.h = s.regs.g ∧
      (i.toNat < 63 → t.ph = 5 ∧ t.idx.toNat = i.toNat + 1) ∧
      (i.toNat = 63 → t.ph = 6 ∧ t.idx = 0)

/-- R160. -/
def Obligations.UFinWritesDigest : Prop :=
  ∀ s : State, ∃ t, exec .uFin s = .next t ∧ t = { s with dg := t.dg, done := true, ph := 0, idx := 0 } ∧
    t.dg[0].toNat = (IV[0].toNat + s.regs.a.toNat) % 2 ^ 32 ∧
    t.dg[1].toNat = (IV[1].toNat + s.regs.b.toNat) % 2 ^ 32 ∧
    t.dg[2].toNat = (IV[2].toNat + s.regs.c.toNat) % 2 ^ 32 ∧
    t.dg[3].toNat = (IV[3].toNat + s.regs.d.toNat) % 2 ^ 32 ∧
    t.dg[4].toNat = (IV[4].toNat + s.regs.e.toNat) % 2 ^ 32 ∧
    t.dg[5].toNat = (IV[5].toNat + s.regs.f.toNat) % 2 ^ 32 ∧
    t.dg[6].toNat = (IV[6].toNat + s.regs.g.toNat) % 2 ^ 32 ∧
    t.dg[7].toNat = (IV[7].toNat + s.regs.h.toNat) % 2 ^ 32

/-- The frame of the six micro-operations: what each leaves unchanged. -/
def Obligations.MicroOpFrame : Prop :=
  ∀ (i : Instr) (s t : State), i.isCommand = false → exec i s = .next t →
    t.ib = s.ib ∧ t.len = s.len ∧ t.ovf = s.ovf ∧ t.err = s.err ∧ t.ecode = s.ecode ∧
    t.inputs = s.inputs ∧ t.rsp = s.rsp ∧ t.resetCount = s.resetCount ∧
    (i ≠ .uPad → t.blk = s.blk) ∧
    (i = .uLdw → ∀ (k : Nat) (h : k < 64), 16 ≤ k → t.w[k] = s.w[k]) ∧
    (∀ n : BitVec 6, i = .uExp n → ∀ (k : Nat) (h : k < 64), k ≠ n.toNat → t.w[k] = s.w[k]) ∧
    (i ≠ .uLdw → (∀ n, i ≠ .uExp n) → t.w = s.w) ∧
    (i ≠ .uIni → (∀ n, i ≠ .uRnd n) → t.regs = s.regs) ∧
    (i ≠ .uFin → t.dg = s.dg ∧ t.done = s.done)

/-! ## Arithmetic -/

/-- R6, R7, R8: addition mod `2^32`, rotation bit by bit, logical shift. -/
def Obligations.AddRotateShift : Prop :=
  (∀ x y : Word, (add32 x y).toNat = (x.toNat + y.toNat) % 2 ^ 32) ∧
  (∀ (x : Word) (n i : Nat), 1 ≤ n → n ≤ 31 → i < 32 → (rotr x n).getLsbD i = x.getLsbD ((i + n) % 32)) ∧
  (∀ (x : Word) (n : Nat), 1 ≤ n → n ≤ 31 → (shr x n).toNat = x.toNat / 2 ^ n)

/-- R10: big-endian packing. -/
def Obligations.BigEndianPacking : Prop :=
  (∀ b0 b1 b2 b3 : Byte,
    (be32 b0 b1 b2 b3).toNat = b0.toNat * 2 ^ 24 + b1.toNat * 2 ^ 16 + b2.toNat * 2 ^ 8 + b3.toNat) ∧
  (∀ w : Word, be32 (byteOf 0 w) (byteOf 1 w) (byteOf 2 w) (byteOf 3 w) = w) ∧
  (∀ (w : Word) (k : Nat), k < 4 → byteOf k w = w.extractLsb' (24 - 8 * k) 8) ∧
  (∀ (v : BitVec 64) (k : Nat), k < 8 → be64Byte k v = v.extractLsb' (56 - 8 * k) 8)

/-- R130, R131: linearity over `xor` and the values the spec gives. -/
def Obligations.SmallSigmaLinear : Prop :=
  (∀ x y : Word, ssig0 (x ^^^ y) = ssig0 x ^^^ ssig0 y ∧ ssig1 (x ^^^ y) = ssig1 x ^^^ ssig1 y) ∧
  (∀ x : Word, ssig0 x = rotr x 7 ^^^ rotr x 18 ^^^ shr x 3 ∧ ssig1 x = rotr x 17 ^^^ rotr x 19 ^^^ shr x 10) ∧
  (∀ (x : Word) (i : Nat), 29 ≤ i → i < 32 → (shr x 3).getLsbD i = false) ∧
  ssig0 0 = 0 ∧ ssig0 0x00000001 = 0x02004000 ∧ ssig0 0x80000000 = 0x11002000 ∧
  ssig0 0xFFFFFFFF = 0x1FFFFFFF ∧ ssig0 0x61626380 = 0x940E90EF ∧
  ssig1 0 = 0 ∧ ssig1 0x00000001 = 0x0000A000 ∧ ssig1 0x80000000 = 0x00205000 ∧
  ssig1 0xFFFFFFFF = 0x003FFFFF ∧ ssig1 0x00000018 = 0x000F0000

/-- R140, R142: linearity over `xor` and the values the spec gives. -/
def Obligations.BigSigmaLinear : Prop :=
  (∀ x y : Word, bsig0 (x ^^^ y) = bsig0 x ^^^ bsig0 y ∧ bsig1 (x ^^^ y) = bsig1 x ^^^ bsig1 y) ∧
  (∀ x : Word, bsig0 x = rotr x 2 ^^^ rotr x 13 ^^^ rotr x 22 ∧ bsig1 x = rotr x 6 ^^^ rotr x 11 ^^^ rotr x 25) ∧
  bsig1 0 = 0 ∧ bsig1 0xFFFFFFFF = 0xFFFFFFFF ∧ bsig1 0x00000001 = 0x04200080 ∧
  bsig1 0x80000000 = 0x02100040 ∧ bsig1 0x510E527F = 0x3587272B ∧
  bsig0 0 = 0 ∧ bsig0 0xFFFFFFFF = 0xFFFFFFFF ∧ bsig0 0x00000001 = 0x40080400 ∧
  bsig0 0x80000000 = 0x20040200 ∧ bsig0 0x6A09E667 = 0xCE20B47E

/-- R141, R143: choice and majority bit by bit, the laws and the values the spec gives. -/
def Obligations.ChooseAndMajority : Prop :=
  (∀ (x y z : Word) (i : Nat), i < 32 →
    (ch x y z).getLsbD i = (if x.getLsbD i = true then y.getLsbD i else z.getLsbD i) ∧
    ((maj x y z).getLsbD i = true ↔
      2 ≤ (x.getLsbD i).toNat + (y.getLsbD i).toNat + (z.getLsbD i).toNat)) ∧
  (∀ x y z : Word,
    ch x y z = (x &&& y) ^^^ (not32 x &&& z) ∧ ch x y z = (x &&& y) ||| (not32 x &&& z) ∧
    ch 0xFFFFFFFF y z = y ∧ ch 0 y z = z ∧ ch x y y = y ∧
    maj x y z = (x &&& y) ^^^ (x &&& z) ^^^ (y &&& z) ∧
    maj x y z = maj y x z ∧ maj x y z = maj x z y ∧ maj x x z = x ∧ maj 0 y z = y &&& z ∧
    maj 0xFFFFFFFF y z = y ||| z) ∧
  ch 0x0F0F0F0F 0xAAAAAAAA 0x55555555 = 0x5A5A5A5A ∧
  ch 0x510E527F 0x9B05688C 0x1F83D9AB = 0x1F85C98C ∧
  maj 0x0F0F0F0F 0x33333333 0x55555555 = 0x17171717 ∧
  maj 0x6A09E667 0xBB67AE85 0x3C6EF372 = 0x3A6FE667

/-! ## The machine -/

/-- The invariant holds after reset. -/
def Obligations.ResetSatisfiesInvariant : Prop := CoreInv State.reset

/-- R40: every transition keeps what holds in every reachable state, from every state that has it. -/
def Obligations.EveryStepKeepsInvariant : Prop :=
  ∀ s t : State, CoreInv s → step s = .next t → CoreInv t

/-- In a state with the invariant every transition has a next state: no fault, no refusal (R214; R217 while `PH ≠ 0`).
For `PH = 0` with nothing driven the spec enables no step (R12, R218); the next state claimed there is the model's
choice, log entry 6. -/
def Obligations.InvariantStatesNeverStop : Prop :=
  ∀ s : State, CoreInv s → ∃ t, step s = .next t

/-- R33: where the sequencer goes from each reachable value in a core turn. From the idle value there is no core step;
that a core turn leaves it idle is the model's choice, log entry 6. -/
def Obligations.SequencerFollowsTable : Prop :=
  ∀ s t : State, CoreInv s → State.coreTurn s → step s = .next t →
    (s.ph = 0 → t.ph = 0 ∧ t.idx = 0) ∧
    (s.ph = 1 → t.ph = 2 ∧ t.idx = 0) ∧
    (s.ph = 2 → t.ph = 3 ∧ t.idx = 16) ∧
    (s.ph = 3 → s.idx.toNat ≤ 62 → t.ph = 3 ∧ t.idx.toNat = s.idx.toNat + 1) ∧
    (s.ph = 3 → s.idx.toNat = 63 → t.ph = 4 ∧ t.idx = 0) ∧
    (s.ph = 4 → t.ph = 5 ∧ t.idx = 0) ∧
    (s.ph = 5 → s.idx.toNat ≤ 62 → t.ph = 5 ∧ t.idx.toNat = s.idx.toNat + 1) ∧
    (s.ph = 5 → s.idx.toNat = 63 → t.ph = 6 ∧ t.idx = 0) ∧
    (s.ph = 6 → t.ph = 0 ∧ t.idx = 0)

/-- R216, R217: while the core computes, each core turn completes exactly one of the core steps owed, of which there
are 116 after `HASH`, and no host step changes what is owed. -/
def Obligations.CoreStepsOwedCountDown : Prop :=
  ∀ s : State, CoreInv s → s.ph ≠ 0 →
    (1 ≤ s.owed ∧ s.owed ≤ 116) ∧
    (State.coreTurn s → ∃ t, step s = .next t ∧ t.owed + 1 = s.owed ∧ (t.owed = 0 ↔ t.done = true)) ∧
    (∀ w, State.hostTurn s w → ∃ t, step s = .next t ∧ t.owed = s.owed)

/-- R193: while the core computes, no host step changes anything but the response pins, and which answer each gets. -/
def Obligations.HostStepsWhileBusyChangeNothing : Prop :=
  ∀ (s : State) (w : CmdWord), s.ph ≠ 0 → State.hostTurn s w →
    ∃ r, step s = .next { s with inputs := s.inputs.tail, rsp := some r } ∧
      (IllegalWord w → r = ⟨.illegal, 0x00⟩) ∧
      (w = 0x0000 ∨ w = 0x0400 ∨ w = 0x0401 ∨ w = 0x0402 → r.code = .ok) ∧
      (w = 0x0400 → CoreInv s → r.data = 0x01) ∧
      (w = 0x0100 ∨ w = 0x0300 ∨ cmdOp w = 0x02 ∨ w &&& 0xFFE0 = 0x0500 → r = ⟨.busy, 0x00⟩)

/-- R165: while `DONE = 1` no transition but a reset changes the digest, and none but `INIT` and reset clears `DONE`. -/
def Obligations.DigestImmutableWhileDone : Prop :=
  ∀ s t : State, CoreInv s → s.done = true → s.pins.rst = false → step s = .next t →
    t.dg = s.dg ∧ (¬ State.hostTurn s 0x0100 → t.done = true) ∧
    ∀ j : BitVec 5, State.hostTurn s (cmdWord 0x05 ((0 : BitVec 3) ++ j)) →
      t.rsp = some ⟨.ok, doutByte s.dg j⟩

/-- R22, R23, R181: pushing the bytes `m` into an empty input stores the first 55 of them and sets `OVF` exactly when
there are more. -/
def Obligations.PushesCollectInput : Prop :=
  ∀ (m : List Byte) (s : State) (rest : List Pins),
    s.inputs = m.map (fun b => present (cmdWord 0x02 b)) ++ rest →
    s.ph = 0 → s.done = false → s.err = false → s.ovf = false → s.len = 0 →
    ∃ t, State.run m.length s = .next t ∧ t.inputs = rest ∧ t.input = m.take 55 ∧
      t.len.toNat = min m.length 55 ∧ (t.ovf = true ↔ 55 < m.length) ∧
      t.ph = 0 ∧ t.idx = s.idx ∧ t.done = false ∧ t.err = false ∧ t.ecode = s.ecode

/-- R164: from `COLLECT` with an input of at most 55 bytes, `HASH` and exactly 116 core turns, with any host steps between
them, end in `DONE` with the digest of the input; before the last of them the core is still computing. -/
def Obligations.HashComputesDigest : Prop :=
  ∀ (s : State) (between rest : List Pins) (hm : s.input.length ≤ maxInput),
    CoreInv s → s.top = .collect → s.ovf = false →
    (∀ p ∈ between, p.rst = false) → between.count coreTurnPins = 115 →
    s.inputs = present 0x0300 :: (between ++ coreTurnPins :: rest) →
    (∃ t, step s = .next t ∧ t.rsp = some ⟨.ok, 0x00⟩) ∧
    (∀ k, k ≤ between.length → ∃ u, State.run (1 + k) s = .next u ∧ u.top = .busy) ∧
    ∃ t, State.run (1 + between.length + 1) s = .next t ∧ t.top = .done ∧ t.inputs = rest ∧
      t.blk = pad s.input hm ∧ t.w = sched (pad s.input hm) ∧ t.regs = workingAfter (sched (pad s.input hm)) 64 ∧
      serialize t.dg = compress (pad s.input hm) ∧ hashOf s.input = .ok (serialize t.dg) ∧
      t.len = s.len ∧ t.ib = s.ib

/-- R163: the composite function `hash`, and its two values that the source prints. They rest on the tables `K` and `IV`,
log entry 9. -/
def Obligations.HashFunctionAndSourceDigests : Prop :=
  (∀ (m : List Byte) (h : m.length ≤ maxInput), hashOf m = .ok (compress (pad m h))) ∧
  (∀ m : List Byte, 56 ≤ m.length → hashOf m = .error .inputTooLong) ∧
  (hashOf []).toOption.map Vector.toList = some
    [0xe3, 0xb0, 0xc4, 0x42, 0x98, 0xfc, 0x1c, 0x14, 0x9a, 0xfb, 0xf4, 0xc8, 0x99, 0x6f, 0xb9, 0x24,
     0x27, 0xae, 0x41, 0xe4, 0x64, 0x9b, 0x93, 0x4c, 0xa4, 0x95, 0x99, 0x1b, 0x78, 0x52, 0xb8, 0x55] ∧
  (hashOf [0x61, 0x62, 0x63]).toOption.map Vector.toList = some
    [0xba, 0x78, 0x16, 0xbf, 0x8f, 0x01, 0xcf, 0xea, 0x41, 0x41, 0x40, 0xde, 0x5d, 0xae, 0x22, 0x23,
     0xb0, 0x03, 0x61, 0xa3, 0x96, 0x17, 0x7a, 0x9c, 0xb4, 0x10, 0xff, 0x61, 0xf2, 0x00, 0x15, 0xad]

/-- R111: the whole transaction `INIT; PUSH*; HASH; WAIT` from any state with `PH = 0`: at most 55 bytes end in `DONE`
with the hash of exactly those bytes, more end in `ERROR` after no core step. -/
def Obligations.TransactionYieldsHash : Prop :=
  ∀ (m : List Byte) (s : State), CoreInv s → s.ph = 0 →
    (m.length ≤ 55 → ∀ (between rest : List Pins),
      (∀ p ∈ between, p.rst = false) → between.count coreTurnPins = 115 →
      s.inputs = present 0x0100 :: (m.map (fun b => present (cmdWord 0x02 b)) ++
        present 0x0300 :: (between ++ coreTurnPins :: rest)) →
      ∃ t, State.run (m.length + between.length + 3) s = .next t ∧ t.top = .done ∧ t.inputs = rest ∧
        hashOf m = .ok (serialize t.dg)) ∧
    (55 < m.length → ∀ rest : List Pins,
      s.inputs = present 0x0100 :: (m.map (fun b => present (cmdWord 0x02 b)) ++ present 0x0300 :: rest) →
      ∃ t, State.run (m.length + 2) s = .next t ∧ t.top = .error ∧ t.inputs = rest ∧
        t.rsp = some ⟨.fail, 0x01⟩ ∧ hashOf m = .error .inputTooLong)

/-- R13, R41: two runs that differ only in stale or unspecified datapath contents answer alike for ever: agreement on
what is live is kept by every transition, and with it the response. That an idle core turn is a transition too is the
model's choice, log entry 6. -/
def Obligations.StaleContentsNeverObserved : Prop :=
  ∀ s t : State, CoreInv s → Agree s t →
    ∃ s' t', step s = .next s' ∧ step t = .next t' ∧ Agree s' t'
end

