-- ==== Sys2Proof/Laws/Decode.lean ====
section
/-! SUPPORT. The fields of command words and sequencer values, and what the decoder answers by field. -/

namespace Sys2Proof

@[simp] theorem cmdOp_cmdWord (op imm : Byte) : cmdOp (cmdWord op imm) = op := by
  simp only [cmdOp, cmdWord]
  exact BitVec.extractLsb'_append_eq_left

@[simp] theorem cmdImm_cmdWord (op imm : Byte) : cmdImm (cmdWord op imm) = imm := by
  simp only [cmdImm, cmdWord]
  exact BitVec.extractLsb'_append_eq_right

@[simp] theorem seqPh_append (p : BitVec 3) (i : BitVec 6) : seqPh (p ++ i) = p := by
  simp only [seqPh]
  exact BitVec.extractLsb'_append_eq_left

@[simp] theorem seqIdx_append (p : BitVec 3) (i : BitVec 6) : seqIdx (p ++ i) = i := by
  simp only [seqIdx]
  exact BitVec.extractLsb'_append_eq_right

theorem cmdWord_fields (w : CmdWord) : cmdWord (cmdOp w) (cmdImm w) = w := by
  simp only [cmdWord, cmdOp, cmdImm]
  exact BitVec.extractLsb'_append_extractLsb'_eq_extractLsb' (by rfl) |>.trans (by simp)

theorem seqWord_fields (q : SeqWord) : seqWord (seqPh q) (seqIdx q) = q := by
  simp only [seqWord, seqPh, seqIdx]
  exact BitVec.extractLsb'_append_extractLsb'_eq_extractLsb' (by rfl) |>.trans (by simp)

/-- The fields of an immediate that `RDD` splits: bits 7:5 and 4:0. -/
theorem imm_split (imm : Byte) : imm.extractLsb' 5 3 ++ imm.extractLsb' 0 5 = imm :=
  BitVec.extractLsb'_append_extractLsb'_eq_extractLsb' (by rfl) |>.trans (by simp)

/-- The micro-operation selected, by the two registers. -/
theorem decodeSeq_append (p : BitVec 3) (i : BitVec 6) :
    decodeSeq (p ++ i) =
      if p = 1 ∧ i = 0 then .ok .uPad
      else if p = 2 ∧ i = 0 then .ok .uLdw
      else if p = 3 then .ok (.uExp i)
      else if p = 4 ∧ i = 0 then .ok .uIni
      else if p = 5 then .ok (.uRnd i)
      else if p = 6 ∧ i = 0 then .ok .uFin
      else .error (.noMicroOp (p ++ i)) := by
  simp only [decodeSeq, seqPh_append, seqIdx_append]

end Sys2Proof
end

