-- ==== Sys2Proof/Laws/State.lean ====
section
/-! SUPPORT. One lemma per field of State per shared update, each true by unfolding the update once. -/

namespace Sys2Proof.Machine

/-! ### respond: answering a command -/

@[simp] theorem respond_ib (s : State) (c : RspCode) (d : Byte) : (respond s c d).ib = s.ib := rfl
@[simp] theorem respond_len (s : State) (c : RspCode) (d : Byte) : (respond s c d).len = s.len := rfl
@[simp] theorem respond_ovf (s : State) (c : RspCode) (d : Byte) : (respond s c d).ovf = s.ovf := rfl
@[simp] theorem respond_blk (s : State) (c : RspCode) (d : Byte) : (respond s c d).blk = s.blk := rfl
@[simp] theorem respond_w (s : State) (c : RspCode) (d : Byte) : (respond s c d).w = s.w := rfl
@[simp] theorem respond_regs (s : State) (c : RspCode) (d : Byte) : (respond s c d).regs = s.regs := rfl
@[simp] theorem respond_dg (s : State) (c : RspCode) (d : Byte) : (respond s c d).dg = s.dg := rfl
@[simp] theorem respond_ph (s : State) (c : RspCode) (d : Byte) : (respond s c d).ph = s.ph := rfl
@[simp] theorem respond_idx (s : State) (c : RspCode) (d : Byte) : (respond s c d).idx = s.idx := rfl
@[simp] theorem respond_done (s : State) (c : RspCode) (d : Byte) : (respond s c d).done = s.done := rfl
@[simp] theorem respond_err (s : State) (c : RspCode) (d : Byte) : (respond s c d).err = s.err := rfl
@[simp] theorem respond_ecode (s : State) (c : RspCode) (d : Byte) : (respond s c d).ecode = s.ecode := rfl
@[simp] theorem respond_inputs (s : State) (c : RspCode) (d : Byte) : (respond s c d).inputs = s.inputs := rfl
@[simp] theorem respond_rsp (s : State) (c : RspCode) (d : Byte) : (respond s c d).rsp = some ⟨c, d⟩ := rfl
@[simp] theorem respond_resetCount (s : State) (c : RspCode) (d : Byte) : (respond s c d).resetCount = s.resetCount := rfl

/-! ### setSeq: the sequencer write -/

@[simp] theorem setSeq_ib (s : State) (p : BitVec 3) (i : BitVec 6) : (setSeq s p i).ib = s.ib := rfl
@[simp] theorem setSeq_len (s : State) (p : BitVec 3) (i : BitVec 6) : (setSeq s p i).len = s.len := rfl
@[simp] theorem setSeq_ovf (s : State) (p : BitVec 3) (i : BitVec 6) : (setSeq s p i).ovf = s.ovf := rfl
@[simp] theorem setSeq_blk (s : State) (p : BitVec 3) (i : BitVec 6) : (setSeq s p i).blk = s.blk := rfl
@[simp] theorem setSeq_w (s : State) (p : BitVec 3) (i : BitVec 6) : (setSeq s p i).w = s.w := rfl
@[simp] theorem setSeq_regs (s : State) (p : BitVec 3) (i : BitVec 6) : (setSeq s p i).regs = s.regs := rfl
@[simp] theorem setSeq_dg (s : State) (p : BitVec 3) (i : BitVec 6) : (setSeq s p i).dg = s.dg := rfl
@[simp] theorem setSeq_ph (s : State) (p : BitVec 3) (i : BitVec 6) : (setSeq s p i).ph = p := rfl
@[simp] theorem setSeq_idx (s : State) (p : BitVec 3) (i : BitVec 6) : (setSeq s p i).idx = i := rfl
@[simp] theorem setSeq_done (s : State) (p : BitVec 3) (i : BitVec 6) : (setSeq s p i).done = s.done := rfl
@[simp] theorem setSeq_err (s : State) (p : BitVec 3) (i : BitVec 6) : (setSeq s p i).err = s.err := rfl
@[simp] theorem setSeq_ecode (s : State) (p : BitVec 3) (i : BitVec 6) : (setSeq s p i).ecode = s.ecode := rfl
@[simp] theorem setSeq_inputs (s : State) (p : BitVec 3) (i : BitVec 6) : (setSeq s p i).inputs = s.inputs := rfl
@[simp] theorem setSeq_rsp (s : State) (p : BitVec 3) (i : BitVec 6) : (setSeq s p i).rsp = s.rsp := rfl
@[simp] theorem setSeq_resetCount (s : State) (p : BitVec 3) (i : BitVec 6) : (setSeq s p i).resetCount = s.resetCount := rfl

/-! ### openInvocation: opening an invocation -/

@[simp] theorem openInvocation_ib (s : State) : (openInvocation s).ib = s.ib := rfl
@[simp] theorem openInvocation_len (s : State) : (openInvocation s).len = 0 := rfl
@[simp] theorem openInvocation_ovf (s : State) : (openInvocation s).ovf = false := rfl
@[simp] theorem openInvocation_blk (s : State) : (openInvocation s).blk = s.blk := rfl
@[simp] theorem openInvocation_w (s : State) : (openInvocation s).w = s.w := rfl
@[simp] theorem openInvocation_regs (s : State) : (openInvocation s).regs = s.regs := rfl
@[simp] theorem openInvocation_dg (s : State) : (openInvocation s).dg = s.dg := rfl
@[simp] theorem openInvocation_ph (s : State) : (openInvocation s).ph = s.ph := rfl
@[simp] theorem openInvocation_idx (s : State) : (openInvocation s).idx = s.idx := rfl
@[simp] theorem openInvocation_done (s : State) : (openInvocation s).done = false := rfl
@[simp] theorem openInvocation_err (s : State) : (openInvocation s).err = false := rfl
@[simp] theorem openInvocation_ecode (s : State) : (openInvocation s).ecode = 0x00 := rfl
@[simp] theorem openInvocation_inputs (s : State) : (openInvocation s).inputs = s.inputs := rfl
@[simp] theorem openInvocation_rsp (s : State) : (openInvocation s).rsp = s.rsp := rfl
@[simp] theorem openInvocation_resetCount (s : State) : (openInvocation s).resetCount = s.resetCount := rfl

/-! ### raiseInputTooLong: raising `InputTooLong` -/

@[simp] theorem raiseInputTooLong_ib (s : State) : (raiseInputTooLong s).ib = s.ib := rfl
@[simp] theorem raiseInputTooLong_len (s : State) : (raiseInputTooLong s).len = s.len := rfl
@[simp] theorem raiseInputTooLong_ovf (s : State) : (raiseInputTooLong s).ovf = s.ovf := rfl
@[simp] theorem raiseInputTooLong_blk (s : State) : (raiseInputTooLong s).blk = s.blk := rfl
@[simp] theorem raiseInputTooLong_w (s : State) : (raiseInputTooLong s).w = s.w := rfl
@[simp] theorem raiseInputTooLong_regs (s : State) : (raiseInputTooLong s).regs = s.regs := rfl
@[simp] theorem raiseInputTooLong_dg (s : State) : (raiseInputTooLong s).dg = s.dg := rfl
@[simp] theorem raiseInputTooLong_ph (s : State) : (raiseInputTooLong s).ph = s.ph := rfl
@[simp] theorem raiseInputTooLong_idx (s : State) : (raiseInputTooLong s).idx = s.idx := rfl
@[simp] theorem raiseInputTooLong_done (s : State) : (raiseInputTooLong s).done = s.done := rfl
@[simp] theorem raiseInputTooLong_err (s : State) : (raiseInputTooLong s).err = true := rfl
@[simp] theorem raiseInputTooLong_ecode (s : State) : (raiseInputTooLong s).ecode = 0x01 := rfl
@[simp] theorem raiseInputTooLong_inputs (s : State) : (raiseInputTooLong s).inputs = s.inputs := rfl
@[simp] theorem raiseInputTooLong_rsp (s : State) : (raiseInputTooLong s).rsp = some ⟨.fail, 0x01⟩ := rfl
@[simp] theorem raiseInputTooLong_resetCount (s : State) : (raiseInputTooLong s).resetCount = s.resetCount := rfl

/-! ### applyReset: the reset transition -/

@[simp] theorem applyReset_ib (s : State) :
    (applyReset s).ib = State.freeIB s.resetCount s.ib.toList := rfl
@[simp] theorem applyReset_len (s : State) : (applyReset s).len = 0 := rfl
@[simp] theorem applyReset_ovf (s : State) : (applyReset s).ovf = false := rfl
@[simp] theorem applyReset_blk (s : State) :
    (applyReset s).blk = State.freeBLK s.resetCount s.blk.toList := rfl
@[simp] theorem applyReset_w (s : State) :
    (applyReset s).w = State.freeW s.resetCount s.w.toList := rfl
@[simp] theorem applyReset_regs (s : State) :
    (applyReset s).regs = State.freeWorking s.resetCount s.regs.r.toList := rfl
@[simp] theorem applyReset_dg (s : State) :
    (applyReset s).dg = State.freeDG s.resetCount s.dg.toList := rfl
@[simp] theorem applyReset_ph (s : State) : (applyReset s).ph = 0 := rfl
@[simp] theorem applyReset_idx (s : State) : (applyReset s).idx = 0 := rfl
@[simp] theorem applyReset_done (s : State) : (applyReset s).done = false := rfl
@[simp] theorem applyReset_err (s : State) : (applyReset s).err = false := rfl
@[simp] theorem applyReset_ecode (s : State) : (applyReset s).ecode = 0x00 := rfl
@[simp] theorem applyReset_inputs (s : State) : (applyReset s).inputs = s.inputs := rfl
@[simp] theorem applyReset_rsp (s : State) : (applyReset s).rsp = s.rsp := rfl
@[simp] theorem applyReset_resetCount (s : State) : (applyReset s).resetCount = s.resetCount + 1 := rfl

/-! ### takeInput: taking the pins of a transition -/

@[simp] theorem takeInput_ib (s : State) : (takeInput s).ib = s.ib := rfl
@[simp] theorem takeInput_len (s : State) : (takeInput s).len = s.len := rfl
@[simp] theorem takeInput_ovf (s : State) : (takeInput s).ovf = s.ovf := rfl
@[simp] theorem takeInput_blk (s : State) : (takeInput s).blk = s.blk := rfl
@[simp] theorem takeInput_w (s : State) : (takeInput s).w = s.w := rfl
@[simp] theorem takeInput_regs (s : State) : (takeInput s).regs = s.regs := rfl
@[simp] theorem takeInput_dg (s : State) : (takeInput s).dg = s.dg := rfl
@[simp] theorem takeInput_ph (s : State) : (takeInput s).ph = s.ph := rfl
@[simp] theorem takeInput_idx (s : State) : (takeInput s).idx = s.idx := rfl
@[simp] theorem takeInput_done (s : State) : (takeInput s).done = s.done := rfl
@[simp] theorem takeInput_err (s : State) : (takeInput s).err = s.err := rfl
@[simp] theorem takeInput_ecode (s : State) : (takeInput s).ecode = s.ecode := rfl
@[simp] theorem takeInput_inputs (s : State) : (takeInput s).inputs = s.inputs.tail := rfl
@[simp] theorem takeInput_rsp (s : State) : (takeInput s).rsp = none := rfl
@[simp] theorem takeInput_resetCount (s : State) : (takeInput s).resetCount = s.resetCount := rfl

end Sys2Proof.Machine
end

