-- ==== Sys2Proof/Laws/Ops.lean ====
section
/-! SUPPORT. What each shared operation can do, said once. -/

namespace Sys2Proof.Machine

theorem unlessBusy_of_busy {s k : State} (h : s.ph ≠ 0) : unlessBusy s k = respond s .busy 0x00 := if_pos h

theorem unlessBusy_of_idle {s k : State} (h : s.ph = 0) : unlessBusy s k = k := by
  simp [unlessBusy, h]

theorem unlessEnded_of_ended {s k : State} (h : s.done = true ∨ s.err = true) :
    unlessEnded s k = respond s .badState 0x00 := by
  simp [unlessEnded, h]

theorem unlessEnded_of_open {s k : State} (hd : s.done = false) (he : s.err = false) : unlessEnded s k = k := by
  simp [unlessEnded, hd, he]

theorem unlessNoDigest_of_done {s k : State} (h : s.done = true) : unlessNoDigest s k = k := by
  simp [unlessNoDigest, h]

theorem unlessNoDigest_of_not_done {s k : State} (h : s.done = false) :
    unlessNoDigest s k = respond s .badState 0x00 := by
  simp [unlessNoDigest, h]

/-- The busy gate answers `BUSY` or lets through. -/
theorem unlessBusy_cases (s k : State) :
    (s.ph ≠ 0 ∧ unlessBusy s k = respond s .busy 0x00) ∨ (s.ph = 0 ∧ unlessBusy s k = k) := by
  by_cases h : s.ph = 0
  · exact .inr ⟨h, unlessBusy_of_idle h⟩
  · exact .inl ⟨h, unlessBusy_of_busy h⟩

/-- The `BADSTATE` gate of `PUSH` and `HASH` answers `BADSTATE` or lets through. -/
theorem unlessEnded_cases (s k : State) :
    ((s.done = true ∨ s.err = true) ∧ unlessEnded s k = respond s .badState 0x00) ∨
      ((s.done = false ∧ s.err = false) ∧ unlessEnded s k = k) := by
  cases hd : s.done <;> cases he : s.err <;> simp [unlessEnded, hd, he]

/-- The `BADSTATE` gate of `RDD` answers `BADSTATE` or lets through. -/
theorem unlessNoDigest_cases (s k : State) :
    (s.done = false ∧ unlessNoDigest s k = respond s .badState 0x00) ∨
      (s.done = true ∧ unlessNoDigest s k = k) := by
  cases hd : s.done <;> simp [unlessNoDigest, hd]

/-- Answering changes nothing but the response. -/
theorem respond_eq (s : State) (c : RspCode) (d : Byte) : respond s c d = { s with rsp := some ⟨c, d⟩ } := rfl

/-- A stored byte is at the index stored to and nowhere else. -/
theorem getElem_writeIB (ib : Vector Byte 55) (len : BitVec 6) (b : Byte) (k : Nat) (h : k < 55) :
    (writeIB ib len b)[k] = if len.toNat = k then b else ib[k] := by
  simp [writeIB, Vector.getElem_setIfInBounds]

/-- The input collected so far is a function of `IB` and `LEN`. -/
theorem input_congr {s t : State} (hi : t.ib = s.ib) (hl : t.len = s.len) : t.input = s.input := by
  simp only [State.input, hi, hl]

/-- The input has `LEN` bytes while `LEN ≤ 55`. -/
theorem input_length {s : State} (h : s.len.toNat ≤ 55) : s.input.length = s.len.toNat := by
  simp [State.input]
  omega

@[simp] theorem input_takeInput (s : State) : (takeInput s).input = s.input := rfl

@[simp] theorem input_respond (s : State) (c : RspCode) (d : Byte) : (respond s c d).input = s.input := rfl

end Sys2Proof.Machine
end

