-- ==== Sys2Proof/Laws/HostCommands.lean ====
section
/-! SUPPORT. The inversion lemma of the host commands: everything a command can do to the state. -/

namespace Sys2Proof.Machine

/-- Everything a host command can do: nothing but answer, open an invocation, store a byte, set `OVF`, raise
`InputTooLong`, start the sequencer. -/
inductive CommandEffect (s : State) : State → Prop where
  | answer (c : RspCode) (d : Byte) (hc : c ≠ .fail) : CommandEffect s (respond s c d)
  | opened (hp : s.ph = 0) : CommandEffect s (respond (openInvocation s) .ok 0x00)
  | stored (b : Byte) (hp : s.ph = 0) (hd : s.done = false) (he : s.err = false) (hl : s.len.toNat < 55) :
      CommandEffect s (respond { s with ib := writeIB s.ib s.len b, len := s.len + 1 } .ok 0x00)
  | overflowed (hp : s.ph = 0) (hd : s.done = false) (he : s.err = false) (hl : 55 ≤ s.len.toNat) :
      CommandEffect s (respond { s with ovf := true } .ok 0x00)
  | raised (hp : s.ph = 0) (hd : s.done = false) (he : s.err = false) (ho : s.ovf = true) :
      CommandEffect s (raiseInputTooLong s)
  | started (hp : s.ph = 0) (hd : s.done = false) (he : s.err = false) (ho : s.ovf = false) :
      CommandEffect s (respond (setSeq s 1 0) .ok 0x00)

/-- A host command always answers a next state, and it is one of these. -/
theorem exec_command (i : Instr) (s : State) (h : i.isCommand = true) :
    ∃ t, exec i s = .next t ∧ CommandEffect s t := by
  cases i with
  | nop => exact ⟨_, rfl, .answer _ _ (by decide)⟩
  | init =>
    refine ⟨_, rfl, ?_⟩
    rcases unlessBusy_cases s (respond (openInvocation s) .ok 0x00) with ⟨hp, e⟩ | ⟨hp, e⟩ <;> rw [e]
    · exact .answer _ _ (by decide)
    · exact .opened hp
  | push b =>
    refine ⟨_, rfl, ?_⟩
    rcases unlessBusy_cases s _ with ⟨hp, e⟩ | ⟨hp, e⟩ <;> rw [e]
    · exact .answer _ _ (by decide)
    rcases unlessEnded_cases s _ with ⟨_, e⟩ | ⟨⟨hd, he⟩, e⟩ <;> rw [e]
    · exact .answer _ _ (by decide)
    split
    · exact .stored b hp hd he ‹_›
    · exact .overflowed hp hd he (by omega)
  | hash =>
    refine ⟨_, rfl, ?_⟩
    rcases unlessBusy_cases s _ with ⟨hp, e⟩ | ⟨hp, e⟩ <;> rw [e]
    · exact .answer _ _ (by decide)
    rcases unlessEnded_cases s _ with ⟨_, e⟩ | ⟨⟨hd, he⟩, e⟩ <;> rw [e]
    · exact .answer _ _ (by decide)
    cases ho : s.ovf
    · exact .started hp hd he ho
    · exact .raised hp hd he ho
  | rds => exact ⟨_, rfl, .answer _ _ (by decide)⟩
  | rdl => exact ⟨_, rfl, .answer _ _ (by decide)⟩
  | rde => exact ⟨_, rfl, .answer _ _ (by decide)⟩
  | rdd j =>
    refine ⟨_, rfl, ?_⟩
    rcases unlessBusy_cases s _ with ⟨hp, e⟩ | ⟨hp, e⟩ <;> rw [e]
    · exact .answer _ _ (by decide)
    rcases unlessNoDigest_cases s _ with ⟨_, e⟩ | ⟨_, e⟩ <;> rw [e] <;> exact .answer _ _ (by decide)
  | uPad | uLdw | uExp _ | uIni | uRnd _ | uFin => simp [Instr.isCommand] at h

end Sys2Proof.Machine
end

