-- ==== Sys2Proof/Laws/PerInstr.lean ====
section
/-! SUPPORT. The family `TableRow`: each instruction's encoding lies in its own row of spec/opcode_table.json, that is
`(word and mask) = match` with the row's match and mask (30_encoding.md R84, R88). -/

namespace Sys2Proof.Laws.TableRow

/-- A `CMD16` code inside a row of the table. -/
def InCommandRow (c : Code) (mask pattern : CmdWord) : Prop := ∃ w, c = .cmd16 w ∧ w &&& mask = pattern

/-- A `SEQ9` code inside a row of the table. -/
def InSeqRow (c : Code) (mask pattern : SeqWord) : Prop := ∃ q, c = .seq9 q ∧ q &&& mask = pattern

/-- The encoding of an instruction lies in the table's row for its mnemonic. -/
def Statement (i : Instr) : Prop :=
  match i with
  | .nop => InCommandRow (encode .nop) 0xFFFF 0x0000
  | .init => InCommandRow (encode .init) 0xFFFF 0x0100
  | .push b => InCommandRow (encode (.push b)) 0xFF00 0x0200
  | .hash => InCommandRow (encode .hash) 0xFFFF 0x0300
  | .rds => InCommandRow (encode .rds) 0xFFFF 0x0400
  | .rdl => InCommandRow (encode .rdl) 0xFFFF 0x0401
  | .rde => InCommandRow (encode .rde) 0xFFFF 0x0402
  | .rdd j => InCommandRow (encode (.rdd j)) 0xFFE0 0x0500
  | .uPad => InSeqRow (encode .uPad) 0x1C0 0x040
  | .uLdw => InSeqRow (encode .uLdw) 0x1C0 0x080
  | .uExp k => InSeqRow (encode (.uExp k)) 0x1C0 0x0C0
  | .uIni => InSeqRow (encode .uIni) 0x1C0 0x100
  | .uRnd k => InSeqRow (encode (.uRnd k)) 0x1C0 0x140
  | .uFin => InSeqRow (encode .uFin) 0x1C0 0x180

theorem nop : Statement .nop := ⟨_, rfl, by decide⟩

theorem init : Statement .init := ⟨_, rfl, by decide⟩

theorem push (b : Byte) : Statement (.push b) := ⟨_, rfl, by revert b; decide⟩

theorem hash : Statement .hash := ⟨_, rfl, by decide⟩

theorem rds : Statement .rds := ⟨_, rfl, by decide⟩

theorem rdl : Statement .rdl := ⟨_, rfl, by decide⟩

theorem rde : Statement .rde := ⟨_, rfl, by decide⟩

theorem rdd (j : BitVec 5) : Statement (.rdd j) := ⟨_, rfl, by revert j; decide⟩

theorem uPad : Statement .uPad := ⟨_, rfl, by decide⟩

theorem uLdw : Statement .uLdw := ⟨_, rfl, by decide⟩

theorem uExp (k : BitVec 6) : Statement (.uExp k) := ⟨_, rfl, by revert k; decide⟩

theorem uIni : Statement .uIni := ⟨_, rfl, by decide⟩

theorem uRnd (k : BitVec 6) : Statement (.uRnd k) := ⟨_, rfl, by revert k; decide⟩

theorem uFin : Statement .uFin := ⟨_, rfl, by decide⟩

end Sys2Proof.Laws.TableRow
end

