-- ==== Sys2Proof/Laws/Safety.lean ====
section
/-! SUPPORT. The top-level states by their registers (10_state.md R40), what the invariant gives when the core is idle,
and the increments of `LEN` and `IDX`. -/

namespace Sys2Proof.Machine

theorem top_busy_iff {s : State} : s.top = .busy ↔ s.ph ≠ 0 := by
  unfold State.top
  by_cases hp : s.ph = 0 <;> cases hd : s.done <;> cases he : s.err <;> simp_all

theorem top_done_iff {s : State} : s.top = .done ↔ s.ph = 0 ∧ s.done = true := by
  unfold State.top
  by_cases hp : s.ph = 0 <;> cases hd : s.done <;> cases he : s.err <;> simp_all

theorem top_error_iff {s : State} : s.top = .error ↔ s.ph = 0 ∧ s.done = false ∧ s.err = true := by
  unfold State.top
  by_cases hp : s.ph = 0 <;> cases hd : s.done <;> cases he : s.err <;> simp_all

theorem top_collect_iff {s : State} : s.top = .collect ↔ s.ph = 0 ∧ s.done = false ∧ s.err = false := by
  unfold State.top
  by_cases hp : s.ph = 0 <;> cases hd : s.done <;> cases he : s.err <;> simp_all

/-- A reachable idle sequencer has `IDX = 0`. -/
theorem CoreInv.idx_of_idle {s : State} (h : CoreInv s) (hp : s.ph = 0) : s.idx = 0 := by
  rcases h.seq_reachable with ⟨_, i⟩ | ⟨p, _⟩ | ⟨p, _⟩ | ⟨p, _⟩ | ⟨p, _⟩ | p | ⟨p, _⟩
  · exact i
  all_goals rw [hp] at p; exact absurd p (by decide)

/-- `ECODE` is `0x00` when `ERR` is 0. -/
theorem CoreInv.ecode_of_not_err {s : State} (h : CoreInv s) (he : s.err = false) : s.ecode = 0x00 := by
  rcases h.ecode_range with e | e
  · exact e
  · have := h.err_ecode.2 e
    simp [he] at this

theorem toNat_succ_of_lt {i : BitVec 6} (h : i.toNat < 63) : (i + 1).toNat = i.toNat + 1 := by
  rw [BitVec.toNat_add]
  simp
  omega

end Sys2Proof.Machine
end

