-- ==== Sys2Proof/Laws/Step.lean ====
section
/-! SUPPORT. What one transition does, by the pins driven and by the sequencer value, and how transitions chain. -/

namespace Sys2Proof.Machine

theorem pins_cons (s : State) (p : Pins) (rest : List Pins) (h : s.inputs = p :: rest) : s.pins = p := by
  simp [State.pins, h]

theorem step_reset {s : State} (h : s.pins.rst = true) : step s = .next (applyReset (takeInput s)) := by
  unfold step
  cases hi : s.inputs with
  | nil => simp [State.pins, hi] at h
  | cons p rest => simp [State.pins, hi] at h; simp [h]

theorem step_hostTurn {s : State} {w : CmdWord} (h : State.hostTurn s w) : step s = hostStep w (takeInput s) := by
  unfold step
  cases hi : s.inputs with
  | nil => simp [State.hostTurn, State.pins, hi] at h
  | cons p rest => simp [State.hostTurn, State.pins, hi] at h; simp [h]

theorem step_coreTurn {s : State} (h : State.coreTurn s) : step s = coreStep (takeInput s) := by
  unfold step
  cases hi : s.inputs with
  | nil => rfl
  | cons p rest => simp [State.coreTurn, State.pins, hi] at h; simp [h]

/-- Every transition is a reset, a host step or a core turn. -/
theorem turn_cases (s : State) : s.pins.rst = true ∨ (∃ w, State.hostTurn s w) ∨ State.coreTurn s := by
  rcases h : s.pins with ⟨rst, cmd⟩
  cases rst <;> cases cmd <;> simp [State.hostTurn, State.coreTurn, h]

/-- A host step answers a next state, with one of the effects a command can have. -/
theorem hostStep_next (w : CmdWord) (s : State) : ∃ t, hostStep w s = .next t ∧ CommandEffect s t := by
  unfold hostStep
  cases hd : decodeCommand w with
  | error e => exact ⟨_, rfl, .answer _ _ (by decide)⟩
  | ok i =>
    have hi : i.isCommand = true := by
      simp only [decodeCommand] at hd
      repeat' split at hd
      all_goals first | (cases hd; rfl) | cases hd
    exact exec_command i s hi

/-! ### The core turn by phase (R33, R88) -/

theorem coreStep_idle {s : State} (hp : s.ph = 0) (hi : s.idx = 0) : coreStep s = .next s := by
  simp [coreStep, State.idle, hp, hi]

theorem coreStep_pad {s : State} (hp : s.ph = 1) (hi : s.idx = 0) : coreStep s = execUPad s := by
  simp only [coreStep, State.idle, State.seq, decodeSeq_append, hp, hi]
  rfl

theorem coreStep_ldw {s : State} (hp : s.ph = 2) (hi : s.idx = 0) : coreStep s = execULdw s := by
  simp only [coreStep, State.idle, State.seq, decodeSeq_append, hp, hi]
  rfl

theorem coreStep_exp {s : State} (hp : s.ph = 3) : coreStep s = execUExp s.idx s := by
  simp only [coreStep, State.idle, State.seq, decodeSeq_append, hp]
  rfl

theorem coreStep_ini {s : State} (hp : s.ph = 4) (hi : s.idx = 0) : coreStep s = execUIni s := by
  simp only [coreStep, State.idle, State.seq, decodeSeq_append, hp, hi]
  rfl

theorem coreStep_rnd {s : State} (hp : s.ph = 5) : coreStep s = execURnd s.idx s := by
  simp only [coreStep, State.idle, State.seq, decodeSeq_append, hp]
  rfl

theorem coreStep_fin {s : State} (hp : s.ph = 6) (hi : s.idx = 0) : coreStep s = execUFin s := by
  simp only [coreStep, State.idle, State.seq, decodeSeq_append, hp, hi]
  rfl

theorem execUPad_of_le {s : State} (h : s.len.toNat ≤ 55) :
    execUPad s = .next (setSeq { s with blk := Vector.ofFn fun i => padByte s.ib s.len.toNat i.val } 2 0) := by
  simp [execUPad, maxInput, h]

theorem execUExp_of_le {s : State} {i : BitVec 6} (h : 16 ≤ i.toNat) :
    execUExp i s = .next (setSeq { s with w := s.w.set i.toNat (expandWord s.w i.toNat i.isLt) i.isLt }
      (if i.toNat < 63 then 3 else 4) (if i.toNat < 63 then i + 1 else 0)) := by
  simp only [execUExp, h, if_true]
  split <;> rfl

theorem execURnd_eq (i : BitVec 6) (s : State) :
    execURnd i s = .next (setSeq
      { s with regs := oneRound s.regs (K[i.toNat]'i.isLt) (s.w[i.toNat]'i.isLt) }
      (if i.toNat < 63 then 5 else 6) (if i.toNat < 63 then i + 1 else 0)) := by
  simp only [execURnd]
  split <;> rfl

/-- Everything a core turn can do where the sequencer value is reachable and `LEN ≤ 55`: nothing when idle, else the
one micro-operation of its phase. -/
theorem coreStep_cases {s : State} (hs : SeqReachable s.ph s.idx) (hl : s.len.toNat ≤ 55) :
    (s.ph = 0 ∧ s.idx = 0 ∧ coreStep s = .next s) ∨
    (s.ph = 1 ∧ s.idx = 0 ∧ coreStep s = .next
      (setSeq { s with blk := Vector.ofFn fun i => padByte s.ib s.len.toNat i.val } 2 0)) ∨
    (s.ph = 2 ∧ s.idx = 0 ∧ coreStep s = .next (setSeq { s with
      w := Vector.ofFn fun i => if h : i.val < 16 then blockWord s.blk i.val h else s.w[i.val] } 3 16)) ∨
    (s.ph = 3 ∧ 16 ≤ s.idx.toNat ∧ coreStep s = .next
      (setSeq { s with w := s.w.set s.idx.toNat (expandWord s.w s.idx.toNat s.idx.isLt) s.idx.isLt }
        (if s.idx.toNat < 63 then 3 else 4) (if s.idx.toNat < 63 then s.idx + 1 else 0))) ∨
    (s.ph = 4 ∧ s.idx = 0 ∧ coreStep s = .next (setSeq { s with regs := initialWorking } 5 0)) ∨
    (s.ph = 5 ∧ coreStep s = .next (setSeq
      { s with regs := oneRound s.regs (K[s.idx.toNat]'s.idx.isLt) (s.w[s.idx.toNat]'s.idx.isLt) }
      (if s.idx.toNat < 63 then 5 else 6) (if s.idx.toNat < 63 then s.idx + 1 else 0))) ∨
    (s.ph = 6 ∧ s.idx = 0 ∧ coreStep s = .next
      (setSeq { s with dg := accumulate s.regs, done := true } 0 0)) := by
  rcases hs with ⟨p, i⟩ | ⟨p, i⟩ | ⟨p, i⟩ | ⟨p, i⟩ | ⟨p, i⟩ | p | ⟨p, i⟩
  · exact .inl ⟨p, i, coreStep_idle p i⟩
  · exact .inr (.inl ⟨p, i, (coreStep_pad p i).trans (execUPad_of_le hl)⟩)
  · exact .inr (.inr (.inl ⟨p, i, coreStep_ldw p i⟩))
  · exact .inr (.inr (.inr (.inl ⟨p, i, (coreStep_exp p).trans (execUExp_of_le i)⟩)))
  · exact .inr (.inr (.inr (.inr (.inl ⟨p, i, coreStep_ini p i⟩))))
  · exact .inr (.inr (.inr (.inr (.inr (.inl ⟨p, (coreStep_rnd p).trans (execURnd_eq _ _)⟩)))))
  · exact .inr (.inr (.inr (.inr (.inr (.inr ⟨p, i, coreStep_fin p i⟩)))))

/-! ### Chains of transitions -/

theorem run_zero (s : State) : State.run 0 s = .next s := rfl

theorem run_succ {s t : State} (k : Nat) (h : step s = .next t) :
    State.run (k + 1) s = State.run k t := by
  simp only [State.run, Host.Core.run, show core.step s = .next t from h]
  rfl

theorem run_add {s t : State} (j k : Nat) (h : State.run j s = .next t) :
    State.run (j + k) s = State.run k t := by
  induction j generalizing s with
  | zero => cases h; simp
  | succ j ih =>
    cases hs : step s with
    | next u =>
      rw [run_succ j hs] at h
      rw [Nat.add_right_comm, run_succ _ hs]
      exact ih h
    | fault r =>
      simp only [State.run, Host.Core.run, show core.step s = .fault r from hs] at h
      cases h
    | refused r =>
      simp only [State.run, Host.Core.run, show core.step s = .refused r from hs] at h
      cases h

end Sys2Proof.Machine
end

