-- ==== Sys2Proof/Tests/Slice0.lean ====
section
/-! SUPPORT. The model's own tests. Expected results come from spec/95_test_vectors.md (the vector is named in the
docstring) or are written out by hand from the rule named. Then, for each obligation with hypotheses, a witness: a
concrete state and operands that meet them. -/

namespace Sys2Proof.Tests

open Sys2Proof.Machine

/-! ## Helpers -/

/-- A state in `COLLECT` with an empty input and every register zero. -/
def base : State where
  ib := Vector.replicate 55 0x00
  len := 0
  ovf := false
  blk := Vector.replicate 64 0x00
  w := Vector.replicate 64 0
  regs := ⟨0, 0, 0, 0, 0, 0, 0, 0⟩
  dg := Vector.replicate 8 0
  ph := 0
  idx := 0
  done := false
  err := false
  ecode := 0x00
  inputs := []
  rsp := none
  resetCount := 1

/-- `COLLECT` with the input "abc". -/
def abc : State := { base with ib := (((base.ib.set 0 0x61).set 1 0x62).set 2 0x63), len := 3 }

/-- `BUSY` at the sequencer value `(p, i)`. -/
def busyAt (p : BitVec 3) (i : BitVec 6) : State := { base with ph := p, idx := i }

/-- `DONE`. -/
def finished : State := { base with done := true }

/-- `ERROR`. -/
def failed : State := { base with len := 55, ovf := true, err := true, ecode := 0x01 }

/-- `COLLECT` with more than 55 bytes pushed. -/
def overfull : State := { base with len := 55, ovf := true }

/-- The property holds of the next state, and there is one. -/
def next (r : Result) (p : State → Bool) : Bool :=
  match r with
  | .next t => p t
  | .fault _ => false
  | .refused _ => false

/-- The machine stops with this fault. -/
def stopsWith (r : Result) (f : Fault) : Bool :=
  match r with
  | .next _ => false
  | .fault g => decide (f = g)
  | .refused _ => false

/-- The response pins show this. -/
def answers (t : State) (c : RspCode) (d : Byte) : Bool := decide (t.rsp = some ⟨c, d⟩)

/-- `s` with the command word presented next. -/
def offered (s : State) (w : CmdWord) : State := { s with inputs := [present w] }

/-! ## Well-formedness: the one check, and an ill-formed instruction it refuses (R89) -/

theorem test_wf_refuses_uExp_15 : (Instr.uExp 15).wf = false := by decide

theorem test_wf_refuses_uExp_0 : (Instr.uExp 0).wf = false := by decide

theorem test_wf_accepts_uExp_16_63 : (Instr.uExp 16).wf = true ∧ (Instr.uExp 63).wf = true := by decide

/-! ## Decoding, from words written out bit by bit (R84, R88) and from V20 to V39 -/

theorem test_decode_nop : decodeCommand 0b0000000000000000 = .ok .nop := by decide

theorem test_decode_init : decodeCommand 0b0000000100000000 = .ok .init := by decide

theorem test_decode_push : decodeCommand 0b0000001010000001 = .ok (.push 0b10000001) := by decide

theorem test_decode_hash : decodeCommand 0b0000001100000000 = .ok .hash := by decide

theorem test_decode_rds : decodeCommand 0b0000010000000000 = .ok .rds := by decide

theorem test_decode_rdl : decodeCommand 0b0000010000000001 = .ok .rdl := by decide

theorem test_decode_rde : decodeCommand 0b0000010000000010 = .ok .rde := by decide

theorem test_decode_rdd : decodeCommand 0b0000010100011011 = .ok (.rdd 0b11011) := by decide

theorem test_decode_uPad : decodeSeq 0b001000000 = .ok .uPad := by decide

theorem test_decode_uLdw : decodeSeq 0b010000000 = .ok .uLdw := by decide

theorem test_decode_uExp : decodeSeq 0b011110010 = .ok (.uExp 0b110010) := by decide

theorem test_decode_uIni : decodeSeq 0b100000000 = .ok .uIni := by decide

theorem test_decode_uRnd : decodeSeq 0b101000011 = .ok (.uRnd 0b000011) := by decide

theorem test_decode_uFin : decodeSeq 0b110000000 = .ok .uFin := by decide

/-- V21, V23, V28, V32, V35 to V39. -/
theorem test_decode_illegal :
    [0x0001, 0x01FF, 0x0301, 0x0403, 0x0520, 0x05FF, 0x0600, 0x8000, 0xFFFF].all
      (fun w => (decodeCommand (BitVec.ofNat 16 w)).toOption.isNone) = true := by decide

/-- V24, V25, V26, V33, V34: the ends of the operand ranges. -/
theorem test_decode_operand_ends :
    decodeCommand 0x0200 = .ok (.push 0x00) ∧ decodeCommand 0x02FF = .ok (.push 0xFF) ∧
    decodeCommand 0x0500 = .ok (.rdd 0) ∧ decodeCommand 0x051F = .ok (.rdd 31) := by decide

/-- R89: phase 7, the idle value, and `U.PAD` with an `IDX` that is not 0 select nothing. -/
theorem test_decodeSeq_none :
    (decodeSeq 0b111000000).toOption = none ∧ (decodeSeq 0b000000000).toOption = none ∧
    (decodeSeq 0b001000001).toOption = none := by decide

/-- The words of the two formats as spec/opcode_table.json numbers them. -/
theorem test_decodeTableWord :
    decodeTableWord 16 0x0261 = some (.push 0x61) ∧ decodeTableWord 9 0x100 = some .uIni ∧
    decodeTableWord 16 0x0140 = some (.uRnd 0) ∧ decodeTableWord 16 0x0403 = none := by decide

/-! ## Host commands -/

/-- R101: in `BUSY` as everywhere. -/
theorem test_nop_busy : next (exec .nop (busyAt 3 19)) (fun t => answers t .ok 0x00 && decide (t.ph = 3)) = true := by
  decide

/-- Section 3.2: `INIT` in `ERROR` clears `LEN`, `OVF`, `ERR`, `ECODE`. -/
theorem test_init_error :
    next (exec .init failed) (fun t => answers t .ok 0x00 && decide (t.len = 0 ∧ t.ovf = false ∧ t.err = false ∧
      t.ecode = 0x00)) = true := by decide

/-- Section 3.2: `INIT` in `BUSY` is rejected. -/
theorem test_init_busy : next (exec .init (busyAt 3 19)) (fun t => answers t .busy 0x00) = true := by decide

/-- V40: the 55th byte is stored. -/
theorem test_push_55th :
    next (exec (.push 0x42) { base with len := 54 }) (fun t => answers t .ok 0x00 &&
      decide (t.len = 55 ∧ t.ovf = false ∧ t.ib[54] = 0x42 ∧ t.ib[53] = 0x00)) = true := by decide

/-- V41: the 56th byte is not stored. -/
theorem test_push_56th :
    next (exec (.push 0x43) { base with len := 55 }) (fun t => answers t .ok 0x00 &&
      decide (t.len = 55 ∧ t.ovf = true ∧ t.ib[54] = 0x00 ∧ t.status = 0x08)) = true := by decide

/-- Section 3.2: `HASH` in `COLLECT`. -/
theorem test_hash_collect :
    next (exec .hash abc) (fun t => answers t .ok 0x00 && decide (t.ph = 1 ∧ t.idx = 0)) = true := by decide

/-- P3: `HASH` with 56 bytes pushed raises `InputTooLong`. -/
theorem test_hash_too_long :
    next (exec .hash overfull) (fun t => answers t .fail 0x01 &&
      decide (t.ph = 0 ∧ t.err = true ∧ t.ecode = 0x01 ∧ t.status = 0x0C)) = true := by decide

/-- Section 3.2: `STATUS` in `ERROR` and in `BUSY`. -/
theorem test_rds :
    next (exec .rds failed) (fun t => answers t .ok 0x0C) = true ∧
    next (exec .rds (busyAt 3 19)) (fun t => answers t .ok 0x01) = true := by decide

/-- Section 3.2: `LEN` in `ERROR`. -/
theorem test_rdl : next (exec .rdl failed) (fun t => answers t .ok 0x37) = true := by decide

/-- Section 3.2: `ECODE` in `ERROR`. -/
theorem test_rde : next (exec .rde failed) (fun t => answers t .ok 0x01) = true := by decide

/-- V76: the digest words of "abc", bytes 5 and 31 of the view. -/
theorem test_rdd :
    let s := { finished with
      dg := #v[0xba7816bf, 0x8f01cfea, 0x414140de, 0x5dae2223, 0xb00361a3, 0x96177a9c, 0xb410ff61, 0xf20015ad] }
    next (exec (.rdd 5) s) (fun t => answers t .ok 0x01) = true ∧
    next (exec (.rdd 31) s) (fun t => answers t .ok 0xad) = true := by decide

/-- Section 3.2: `RDD` in `COLLECT` and in `BUSY`. -/
theorem test_rdd_rejected :
    next (exec (.rdd 0) abc) (fun t => answers t .badState 0x00) = true ∧
    next (exec (.rdd 0) (busyAt 3 19)) (fun t => answers t .busy 0x00) = true := by decide

/-- Section 3.2: an illegal word in `BUSY`. -/
theorem test_illegal_busy :
    next (step (offered (busyAt 3 19) 0x0001)) (fun t => answers t .illegal 0x00 && decide (t.ph = 3)) = true := by
  decide

/-- R83: the five numbers, in the table's order. -/
theorem test_response_code_numbers :
    [RspCode.ok, .busy, .badState, .illegal, .fail].map (fun c => c.bits.toNat) = [0, 1, 2, 3, 4] := by decide

/-! ## Micro-operations -/

/-- V45: `BLK` for "abc". -/
theorem test_uPad_abc :
    next (exec .uPad abc) (fun t => decide (t.blk.toList =
      [0x61, 0x62, 0x63, 0x80] ++ List.replicate 59 0x00 ++ [0x18] ∧ t.ph = 2)) = true := by decide

/-- V49: 55 bytes, the marker directly before the length field. -/
theorem test_uPad_55 :
    next (exec .uPad { base with ib := Vector.replicate 55 0x61, len := 55 }) (fun t => decide (t.blk.toList =
      List.replicate 55 0x61 ++ [0x80, 0x00, 0x00, 0x00, 0x00, 0x00, 0x00, 0x01, 0xb8])) = true := by decide

/-- V17: `W[0]` of "abc"; `W[16..63]` stay. -/
theorem test_uLdw :
    next (exec .uLdw { busyAt 2 0 with
        blk := ((((base.blk.set 0 0x61).set 1 0x62).set 2 0x63).set 3 0x80).set 63 0x18
        w := Vector.replicate 64 7 })
      (fun t => decide (t.w[0] = 0x61626380 ∧ t.w[1] = 0 ∧ t.w[15] = 0x18 ∧ t.w[16] = 7 ∧ t.ph = 3 ∧ t.idx = 16)) =
      true := by decide

/-- V59: `U.EXP 63` for "abc" from the four words it reads. -/
theorem test_uExp_63 :
    next (exec (.uExp 63) { busyAt 3 63 with
        w := ((((base.w.set 47 0x065c43da).set 48 0xfb3e89cb).set 56 0xef57b9cd).set 61 0x668b2ff8) })
      (fun t => decide (t.w[63] = 0x12b1edeb ∧ t.w[62] = 0 ∧ t.ph = 4 ∧ t.idx = 0)) = true := by decide

/-- R89: there is no `U.EXP 15`. -/
theorem test_uExp_15_stuck : stopsWith (exec (.uExp 15) (busyAt 3 15)) .sequencerStuck = true := by decide

/-- V74: the registers after `U.INI`. -/
theorem test_uIni :
    next (exec .uIni (busyAt 4 0)) (fun t => decide (t.regs = ⟨0x6a09e667, 0xbb67ae85, 0x3c6ef372, 0xa54ff53a,
      0x510e527f, 0x9b05688c, 0x1f83d9ab, 0x5be0cd19⟩ ∧ t.ph = 5 ∧ t.idx = 0)) = true := by decide

/-- V74: round 0 of "abc". -/
theorem test_uRnd_0 :
    next (exec (.uRnd 0) { busyAt 5 0 with
        w := base.w.set 0 0x61626380
        regs := ⟨0x6a09e667, 0xbb67ae85, 0x3c6ef372, 0xa54ff53a, 0x510e527f, 0x9b05688c, 0x1f83d9ab, 0x5be0cd19⟩ })
      (fun t => decide (t.regs = ⟨0x5d6aebcd, 0x6a09e667, 0xbb67ae85, 0x3c6ef372, 0xfa2a4622, 0x510e527f, 0x9b05688c,
        0x1f83d9ab⟩ ∧ t.ph = 5 ∧ t.idx = 1)) = true := by decide

/-- V74, V59: round 63 of "abc", from the registers after round 62 and `W[63]`. -/
theorem test_uRnd_63 :
    next (exec (.uRnd 63) { busyAt 5 63 with
        w := base.w.set 63 0x12b1edeb
        regs := ⟨0xd39a2165, 0x04d24d6c, 0xb85e2ce9, 0xb6ae8fff, 0xfb121210, 0x948d25b6, 0x961f4894, 0xb21bad3d⟩ })
      (fun t => decide (t.regs = ⟨0x506e3058, 0xd39a2165, 0x04d24d6c, 0xb85e2ce9, 0x5ef50f24, 0xfb121210, 0x948d25b6,
        0x961f4894⟩ ∧ t.ph = 6 ∧ t.idx = 0)) = true := by decide

/-- V76: `U.FIN` for "abc". -/
theorem test_uFin :
    next (exec .uFin { busyAt 6 0 with
        regs := ⟨0x506e3058, 0xd39a2165, 0x04d24d6c, 0xb85e2ce9, 0x5ef50f24, 0xfb121210, 0x948d25b6, 0x961f4894⟩ })
      (fun t => decide (t.dg.toList = [0xba7816bf, 0x8f01cfea, 0x414140de, 0x5dae2223, 0xb00361a3, 0x96177a9c,
        0xb410ff61, 0xf20015ad] ∧ t.done = true ∧ t.ph = 0)) = true := by decide

/-! ## Arithmetic: V3, V6 to V16, V52 to V73 -/

theorem test_rotr_shr :
    rotr 0x80000000 1 = 0x40000000 ∧ rotr 0x00000001 1 = 0x80000000 ∧ shr 0x00000001 1 = 0 ∧
    rotr 0x00000001 31 = 0x00000002 ∧ rotr 0x12345678 7 = 0xf02468ac ∧ shr 0xFFFFFFFF 3 = 0x1fffffff ∧
    not32 0x0F0F0F0F = 0xf0f0f0f0 := by decide

theorem test_bytes :
    byteOf 0 0xBA7816BF = 0xBA ∧ byteOf 3 0xBA7816BF = 0xBF ∧ be32 0x61 0x62 0x63 0x80 = 0x61626380 ∧
    be64Byte 6 440 = 0x01 ∧ be64Byte 7 440 = 0xb8 := by decide

theorem test_sigma :
    ssig0 0x12345678 = 0xe7fce6ee ∧ ssig1 0x12345678 = 0xa1f78649 ∧ bsig0 0x61626380 = 0x8dd59276 ∧
    bsig1 0x61626380 = 0xc0b865f2 := by decide

theorem test_ch_maj :
    ch 0x0F0F0F0F 0xAAAAAAAA 0x55555555 = 0x5a5a5a5a ∧ maj 0xFFFFFFFF 0 0x12345678 = 0x12345678 := by decide

/-- S2, the first four bytes of the digest of "abc". -/
theorem test_compress_abc :
    (compress (pad [0x61, 0x62, 0x63] (by decide))).toList.take 4 = [0xba, 0x78, 0x16, 0xbf] := by decide +kernel

/-! ## The step -/

/-- R12, R33: a core turn runs the micro-operation the sequencer selects. -/
theorem test_step_core : next (step (busyAt 3 17)) (fun t => decide (t.ph = 3 ∧ t.idx = 18 ∧ t.rsp = none)) = true := by
  decide

/-- V80: reset in mid-computation. -/
theorem test_step_reset :
    next (step { busyAt 5 9 with len := 1, inputs := [⟨true, none⟩] })
      (fun t => decide (t.ph = 0 ∧ t.idx = 0 ∧ t.len = 0 ∧ t.status = 0x00 ∧ t.rsp = none)) = true := by decide

/-- The first command after reset (P1). -/
theorem test_reset_rds : next (step (State.reset.withFetchWord 16 0x0400)) (fun t => answers t .ok 0x00) = true := by
  decide

/-! ## Witnesses: states and operands that meet the hypotheses of the obligations -/

theorem inv_base : CoreInv base := by constructor <;> simp [base, SeqReachable]

theorem inv_len54 : CoreInv { base with len := 54 } := by constructor <;> simp [base, SeqReachable]

theorem inv_len55 : CoreInv { base with len := 55 } := by constructor <;> simp [base, SeqReachable]

theorem inv_overfull : CoreInv overfull := by constructor <;> simp [overfull, base, SeqReachable]

theorem inv_finished : CoreInv finished := by constructor <;> simp [finished, base, SeqReachable]

theorem inv_failed : CoreInv failed := by constructor <;> simp [failed, base, SeqReachable]

theorem inv_busyAt (p : BitVec 3) (i : BitVec 6) (h : SeqReachable p i) : CoreInv (busyAt p i) := by
  constructor <;> simp [busyAt, base, h]

/-- The pins of the coming transitions do not enter the invariant. -/
theorem inv_inputs {s : State} (h : CoreInv s) (l : List Pins) : CoreInv { s with inputs := l } :=
  { seq_reachable := h.seq_reachable, len_le := h.len_le, ovf_len := h.ovf_len, computing := h.computing,
    not_both := h.not_both, done_ovf := h.done_ovf, err_ovf := h.err_ovf, err_ecode := h.err_ecode,
    ecode_range := h.ecode_range }

theorem test_witness_IllegalWordsAnsweredIllegal :
    ∀ w ∈ ([0x0001, 0x01FF, 0x0301, 0x0403, 0x04FF, 0x0520, 0x05FF, 0x0600, 0xFFFF] : List CmdWord),
      State.hostTurn (offered base w) w ∧ IllegalWord w ∧ ∃ e, decodeCommand w = .error e := by
  intro w hw
  refine ⟨rfl, ?_⟩
  simp only [List.mem_cons, List.not_mem_nil, or_false] at hw
  unfold IllegalWord
  rcases hw with rfl | rfl | rfl | rfl | rfl | rfl | rfl | rfl | rfl <;> exact ⟨by decide, _, rfl⟩

theorem test_witness_CommandPatternsSelect : decodeCommand 0x0261 = .ok (.push 0x61) := by decide

theorem test_witness_MicroOpPatternsSelect :
    16 ≤ (16 : BitVec 6).toNat ∧ 16 ≤ (63 : BitVec 6).toNat ∧ (0x000 : SeqWord) &&& 0x1C0 = 0x000 ∧
    (0x03F : SeqWord) &&& 0x1C0 = 0x000 ∧ (0x1C0 : SeqWord) &&& 0x1C0 = 0x1C0 ∧
    (0x1FF : SeqWord) &&& 0x1C0 = 0x1C0 := by decide

theorem test_witness_StepRunsDecodedInstruction :
    (State.hostTurn (offered base 0x0261) 0x0261 ∧ decodeCommand 0x0261 = .ok (.push 0x61)) ∧
    (State.coreTurn (busyAt 3 16) ∧ decodeSeq (busyAt 3 16).seq = .ok (.uExp 16) ∧ (Instr.uExp 16).wf = true) ∧
    (State.coreTurn (busyAt 6 0) ∧ decodeSeq (busyAt 6 0).seq = .ok .uFin ∧ Instr.uFin.wf = true) :=
  ⟨⟨rfl, by decide⟩, ⟨rfl, by decide, rfl⟩, ⟨rfl, by decide, rfl⟩⟩

theorem test_witness_IdleCoreTurnChangesNothing :
    State.coreTurn base ∧ base.ph = 0 ∧ base.idx = 0 ∧ State.coreTurn { finished with inputs := [coreTurnPins] } :=
  ⟨rfl, rfl, rfl, rfl⟩

theorem test_witness_UnreachableSequencerStuck :
    (∀ q ∈ ([(7, 0), (7, 63), (0, 1), (1, 1), (2, 63), (3, 15), (4, 1), (6, 1)] : List (BitVec 3 × BitVec 6)),
      State.coreTurn (busyAt q.1 q.2) ∧ ¬ SeqReachable (busyAt q.1 q.2).ph (busyAt q.1 q.2).idx) ∧
    (0 : BitVec 6).toNat < 16 ∧ (15 : BitVec 6).toNat < 16 := by
  refine ⟨fun q hq => ⟨rfl, ?_⟩, by decide⟩
  simp only [List.mem_cons, List.not_mem_nil, or_false] at hq
  unfold SeqReachable
  rcases hq with rfl | rfl | rfl | rfl | rfl | rfl | rfl | rfl <;> decide

theorem test_witness_PadStopsBeyondMaxInput :
    56 ≤ ({ base with len := 56 } : State).len.toNat ∧ 56 ≤ ({ base with len := 63 } : State).len.toNat := by decide

theorem test_witness_ResetClearsControl :
    ({ busyAt 5 9 with inputs := [⟨true, none⟩] } : State).pins.rst = true ∧
    ({ failed with inputs := [⟨true, some 0x0300⟩] } : State).pins.rst = true := ⟨rfl, rfl⟩

/-- The five values of `STATUS` in reachable states, and `PH ≠ 0`. -/
theorem test_witness_RdsReadsStatus :
    (CoreInv base ∧ base.status = 0x00) ∧ (CoreInv overfull ∧ overfull.status = 0x08) ∧
    (CoreInv (busyAt 5 63) ∧ (busyAt 5 63).status = 0x01 ∧ (busyAt 5 63).ph ≠ 0) ∧
    (CoreInv finished ∧ finished.status = 0x02) ∧ (CoreInv failed ∧ failed.status = 0x0C) :=
  ⟨⟨inv_base, by decide⟩, ⟨inv_overfull, by decide⟩, ⟨inv_busyAt _ _ (by unfold SeqReachable; decide), by decide⟩,
    ⟨inv_finished, by decide⟩, ⟨inv_failed, by decide⟩⟩

theorem test_witness_RdlReadsLength :
    CoreInv base ∧ CoreInv { base with len := 54 } ∧ CoreInv { base with len := 55 } ∧
    (CoreInv overfull ∧ overfull.ovf = true) := ⟨inv_base, inv_len54, inv_len55, inv_overfull, rfl⟩

theorem test_witness_RdeReadsErrorCode :
    (CoreInv failed ∧ failed.ecode = 0x01 ∧ failed.top = .error) ∧ (CoreInv base ∧ base.ecode = 0x00) ∧
    (CoreInv (busyAt 4 0) ∧ (busyAt 4 0).ph ≠ 0) :=
  ⟨⟨inv_failed, by decide⟩, ⟨inv_base, rfl⟩, ⟨inv_busyAt _ _ (by unfold SeqReachable; decide), by decide⟩⟩

theorem test_witness_DigestViewBigEndian :
    ∀ q ∈ [0, 7], ∀ k ∈ [0, 3], q < 8 ∧ k < 4 ∧ 4 * q + k < 32 := by decide

/-- Words and states for each clause of the priority: illegal; the four always accepted; busy; `INIT`; `PUSH` and
`HASH` after the end; `RDD` with and without a digest; `PUSH`; `HASH` with and without `OVF`. -/
theorem test_witness_ResponsePriority :
    IllegalWord 0x0403 ∧
    (∀ w ∈ ([0x0000, 0x0400, 0x0401, 0x0402] : List CmdWord), ¬ IllegalWord w) ∧
    (∀ w ∈ ([0x0100, 0x0200, 0x02FF, 0x0300, 0x0500, 0x051F] : List CmdWord), ¬ IllegalWord w ∧
      w ∉ ([0x0000, 0x0400, 0x0401, 0x0402] : List CmdWord)) ∧
    ((busyAt 1 0).ph ≠ 0 ∧ (finished.ph = 0 ∧ finished.done = true) ∧ (failed.ph = 0 ∧ failed.err = true) ∧
      (base.ph = 0 ∧ base.done = false ∧ base.err = false ∧ base.ovf = false) ∧
      (overfull.ph = 0 ∧ overfull.done = false ∧ overfull.err = false ∧ overfull.ovf = true) ∧
      cmdOp 0x0200 = 0x02 ∧ cmdOp 0x0300 = 0x03 ∧ cmdOp 0x051F = 0x05) := by
  refine ⟨by unfold IllegalWord; decide, fun w hw => ?_, fun w hw => ?_, by decide⟩
  · simp only [List.mem_cons, List.not_mem_nil, or_false] at hw
    unfold IllegalWord
    rcases hw with rfl | rfl | rfl | rfl <;> decide
  · simp only [List.mem_cons, List.not_mem_nil, or_false] at hw
    unfold IllegalWord
    rcases hw with rfl | rfl | rfl | rfl | rfl | rfl <;> decide

theorem test_witness_RejectionsChangeNothing :
    (hostStep 0x0300 (busyAt 5 0) = .next { busyAt 5 0 with rsp := some ⟨.busy, 0x00⟩ }) ∧
    (hostStep 0x0300 finished = .next { finished with rsp := some ⟨.badState, 0x00⟩ }) ∧
    (hostStep 0x0301 base = .next { base with rsp := some ⟨.illegal, 0x00⟩ }) := ⟨rfl, rfl, rfl⟩

/-- The four top-level states, and the transitions by which `BUSY`, `DONE` and `ERROR` are left. -/
theorem test_witness_AcceptanceMatrix :
    (CoreInv base ∧ base.top = .collect ∧ base.ovf = false) ∧
    (CoreInv overfull ∧ overfull.top = .collect ∧ overfull.ovf = true) ∧
    (CoreInv (busyAt 6 0) ∧ (busyAt 6 0).top = .busy) ∧ (CoreInv finished ∧ finished.top = .done) ∧
    (CoreInv failed ∧ failed.top = .error) ∧
    (next (step (busyAt 6 0)) (fun t => decide (t.top ≠ .busy)) = true ∧ (busyAt 6 0).pins.rst = false) ∧
    (next (step (offered finished 0x0100)) (fun t => decide (t.top ≠ .done)) = true ∧
      (offered finished 0x0100).pins.rst = false ∧ CoreInv (offered finished 0x0100)) ∧
    (next (step (offered failed 0x0100)) (fun t => decide (t.top ≠ .error)) = true ∧
      (offered failed 0x0100).pins.rst = false ∧ CoreInv (offered failed 0x0100)) :=
  ⟨⟨inv_base, by decide⟩, ⟨inv_overfull, by decide⟩, ⟨inv_busyAt _ _ (by unfold SeqReachable; decide), by decide⟩,
    ⟨inv_finished, by decide⟩, ⟨inv_failed, by decide⟩, by decide,
    ⟨by decide, rfl, inv_inputs inv_finished _⟩, ⟨by decide, rfl, inv_inputs inv_failed _⟩⟩

/-- Each of the eight commands is one, and has a next state. -/
theorem test_witness_HostCommandFrame :
    ∀ i ∈ [Instr.nop, .init, .push 0x5A, .hash, .rds, .rdl, .rde, .rdd 31],
      i.isCommand = true ∧ next (exec i base) (fun _ => true) = true := by decide

theorem test_witness_ReadsHaveNoSideEffect :
    ∀ i ∈ [Instr.rds, .rdl, .rde, .rdd 0, .rdd 31], next (exec i finished) (fun _ => true) = true := by decide

theorem test_witness_ResponseCodesAndData :
    (State.coreTurn (busyAt 6 0) ∧ next (step (busyAt 6 0)) (fun _ => true) = true) ∧
    (({ base with inputs := [⟨true, none⟩] } : State).pins.rst = true ∧
      next (step { base with inputs := [⟨true, none⟩] }) (fun _ => true) = true) ∧
    next (hostStep 0x0300 overfull) (fun t => answers t .fail 0x01) = true ∧
    next (hostStep 0x0401 failed) (fun t => answers t .ok 0x37) = true := by
  refine ⟨⟨rfl, by decide⟩, ⟨rfl, by decide⟩, by decide, by decide⟩

theorem test_witness_OutputsEqualStatusBits : CoreInv finished ∧ finished.doneOut = true ∧ CoreInv failed ∧
    failed.errOut = true := ⟨inv_finished, rfl, inv_failed, rfl⟩

theorem test_witness_InitLeavesWhatResetLeaves :
    (CoreInv failed ∧ failed.ph = 0 ∧ next (exec .init failed) (fun _ => true) = true) ∧
    (CoreInv finished ∧ finished.ph = 0 ∧ next (exec .init finished) (fun _ => true) = true) :=
  ⟨⟨inv_failed, rfl, by decide⟩, ⟨inv_finished, rfl, by decide⟩⟩

theorem test_witness_InputTooLongEntry :
    overfull.ph = 0 ∧ overfull.done = false ∧ overfull.err = false ∧ overfull.ovf = true := by decide

theorem test_witness_ErrorLeftByInitOnly :
    (CoreInv (offered failed 0x0100) ∧ (offered failed 0x0100).top = .error ∧
      (offered failed 0x0100).pins.rst = false ∧ State.hostTurn (offered failed 0x0100) 0x0100) ∧
    (CoreInv failed ∧ failed.top = .error ∧ failed.pins.rst = false ∧ ¬ State.hostTurn failed 0x0100) :=
  ⟨⟨inv_inputs inv_failed _, by decide, rfl, rfl⟩, ⟨inv_failed, by decide, rfl, by unfold State.hostTurn; decide⟩⟩

theorem test_witness_UPadBuildsBlock :
    base.len.toNat ≤ 55 ∧ base.input.length ≤ maxInput ∧ abc.input = [0x61, 0x62, 0x63] ∧
    ({ base with len := 54 } : State).len.toNat ≤ 55 ∧ ({ base with len := 55 } : State).len.toNat ≤ 55 ∧
    ({ base with len := 55 } : State).input.length ≤ maxInput := by decide

theorem test_witness_PadByRanges :
    ([] : List Byte).length ≤ maxInput ∧ (List.replicate 54 (0x61 : Byte)).length ≤ maxInput ∧
    (List.replicate 55 (0x61 : Byte)).length ≤ maxInput := by decide

theorem test_witness_PadProperties :
    ([] : List Byte).length ≤ maxInput ∧ ([0x80, 0x00, 0x80] : List Byte).length ≤ maxInput ∧
    (List.replicate 32 (0x00 : Byte)).length ≤ maxInput ∧
    pad [0x80] (by decide) = pad [0x80] (by decide) := by decide

theorem test_witness_ULdwLoadsBlock : 0 < 16 ∧ 15 < 16 ∧ 16 < 64 ∧ 63 < 64 := by decide

theorem test_witness_UExpExpandsWord :
    ∀ i ∈ ([16, 62, 63] : List (BitVec 6)), i.toNat < 64 ∧ 16 ≤ i.toNat ∧ (i.toNat < 63 ∨ i.toNat = 63) := by decide

theorem test_witness_ScheduleComputesSched :
    (busyAt 2 0).inputs = [] ∧ (busyAt 2 0).ph = 2 ∧ (busyAt 2 0).idx = 0 := by decide

theorem test_witness_URndRunsRound :
    ∀ i ∈ ([0, 62, 63] : List (BitVec 6)), i.toNat < 64 ∧ (i.toNat < 63 ∨ i.toNat = 63) := by decide

theorem test_witness_MicroOpFrame :
    ∀ i ∈ [Instr.uPad, .uLdw, .uExp 16, .uExp 63, .uIni, .uRnd 0, .uRnd 63, .uFin],
      i.isCommand = false ∧ next (exec i abc) (fun _ => true) = true := by decide

theorem test_witness_AddRotateShift :
    ∀ n ∈ [1, 31], ∀ i ∈ [0, 31], 1 ≤ n ∧ n ≤ 31 ∧ i < 32 := by decide

/-- One state for each clause of the table, at the ends of its range of `IDX`. -/
theorem test_witness_SequencerFollowsTable :
    ∀ q ∈ ([(0, 0), (1, 0), (2, 0), (3, 16), (3, 62), (3, 63), (4, 0), (5, 0), (5, 62), (5, 63), (6, 0)] :
        List (BitVec 3 × BitVec 6)),
      CoreInv (busyAt q.1 q.2) ∧ State.coreTurn (busyAt q.1 q.2) ∧
      next (step (busyAt q.1 q.2)) (fun _ => true) = true := by
  intro q hq
  simp only [List.mem_cons, List.not_mem_nil, or_false] at hq
  refine ⟨inv_busyAt _ _ ?_, rfl, ?_⟩
  · unfold SeqReachable
    rcases hq with rfl | rfl | rfl | rfl | rfl | rfl | rfl | rfl | rfl | rfl | rfl <;> decide
  · rcases hq with rfl | rfl | rfl | rfl | rfl | rfl | rfl | rfl | rfl | rfl | rfl <;> decide

theorem test_witness_EveryStepKeepsInvariant :
    (CoreInv (busyAt 6 0) ∧ next (step (busyAt 6 0)) (fun _ => true) = true) ∧
    (CoreInv (offered overfull 0x0300) ∧ next (step (offered overfull 0x0300)) (fun _ => true) = true) :=
  ⟨⟨inv_busyAt _ _ (by unfold SeqReachable; decide), by decide⟩, ⟨inv_inputs inv_overfull _, by decide⟩⟩

theorem test_witness_InvariantStatesNeverStop : CoreInv base ∧ CoreInv (busyAt 5 63) :=
  ⟨inv_base, inv_busyAt _ _ (by unfold SeqReachable; decide)⟩

theorem test_witness_CoreStepsOwedCountDown :
    (CoreInv (busyAt 1 0) ∧ (busyAt 1 0).ph ≠ 0 ∧ State.coreTurn (busyAt 1 0)) ∧
    (CoreInv (busyAt 6 0) ∧ (busyAt 6 0).ph ≠ 0 ∧ State.coreTurn (busyAt 6 0)) ∧
    (CoreInv (offered (busyAt 3 63) 0x0300) ∧ (offered (busyAt 3 63) 0x0300).ph ≠ 0 ∧
      State.hostTurn (offered (busyAt 3 63) 0x0300) 0x0300) :=
  ⟨⟨inv_busyAt _ _ (by unfold SeqReachable; decide), by decide, rfl⟩,
    ⟨inv_busyAt _ _ (by unfold SeqReachable; decide), by decide, rfl⟩,
    ⟨inv_inputs (inv_busyAt _ _ (by unfold SeqReachable; decide)) _, by decide, rfl⟩⟩

theorem test_witness_HostStepsWhileBusyChangeNothing :
    (∀ w ∈ ([0x0301, 0x0000, 0x0400, 0x0401, 0x0402, 0x0100, 0x0200, 0x0300, 0x0500, 0x051F] : List CmdWord),
      (offered (busyAt 3 19) w).ph ≠ 0 ∧ State.hostTurn (offered (busyAt 3 19) w) w) ∧
    IllegalWord 0x0301 ∧ CoreInv (offered (busyAt 3 19) 0x0400) ∧ (0x051F : CmdWord) &&& 0xFFE0 = 0x0500 :=
  ⟨fun w _ => ⟨by show (3 : BitVec 3) ≠ 0; decide, rfl⟩, by unfold IllegalWord; decide,
    inv_inputs (inv_busyAt _ _ (by unfold SeqReachable; decide)) _, by decide⟩

theorem test_witness_DigestImmutableWhileDone :
    (CoreInv finished ∧ finished.done = true ∧ finished.pins.rst = false ∧ ¬ State.hostTurn finished 0x0100 ∧
      next (step finished) (fun _ => true) = true) ∧
    (CoreInv (offered finished 0x051F) ∧ State.hostTurn (offered finished 0x051F) (cmdWord 0x05 ((0 : BitVec 3) ++ (31 : BitVec 5))) ∧
      next (step (offered finished 0x051F)) (fun _ => true) = true) :=
  ⟨⟨inv_finished, rfl, rfl, by unfold State.hostTurn; decide, by decide⟩,
    ⟨inv_inputs inv_finished _, by unfold State.hostTurn; decide, by decide⟩⟩

/-- The pins that present the bytes `m`. -/
def pushes (m : List Byte) : List Pins := m.map (fun b => present (cmdWord 0x02 b))

/-- No byte, 55 bytes and 56 bytes. -/
theorem test_witness_PushesCollectInput :
    ∀ n ∈ [0, 55, 56],
      let s := { base with inputs := pushes (List.replicate n 0x61) ++ [present 0x0300] }
      s.inputs = (List.replicate n (0x61 : Byte)).map (fun b => present (cmdWord 0x02 b)) ++ [present 0x0300] ∧
      s.ph = 0 ∧ s.done = false ∧ s.err = false ∧ s.ovf = false ∧ s.len = 0 :=
  fun _ _ => ⟨rfl, rfl, rfl, rfl, rfl, rfl⟩

/-- Lengths on both sides of the limit. -/
theorem test_witness_HashFunctionAndSourceDigests :
    (List.replicate 55 (0x61 : Byte)).length ≤ maxInput ∧ 56 ≤ (List.replicate 56 (0x61 : Byte)).length := by decide

/-- 115 core turns with a host step after the first. -/
def betweenExample : List Pins := coreTurnPins :: present 0x0400 :: List.replicate 114 coreTurnPins

theorem betweenExample_ok : (∀ p ∈ betweenExample, p.rst = false) ∧ betweenExample.count coreTurnPins = 115 := by
  refine ⟨fun p hp => ?_, by simp [betweenExample, coreTurnPins, present]⟩
  simp only [betweenExample, List.mem_cons, List.mem_replicate] at hp
  rcases hp with rfl | rfl | ⟨-, rfl⟩ <;> rfl

/-- "abc", and the longest input. -/
theorem test_witness_HashComputesDigest :
    ∀ s ∈ [abc, { base with len := 55 }],
      let t := { s with inputs := present 0x0300 :: (betweenExample ++ coreTurnPins :: [present 0x0500]) }
      t.input.length ≤ maxInput ∧ CoreInv t ∧ t.top = .collect ∧ t.ovf = false ∧
      (∀ p ∈ betweenExample, p.rst = false) ∧ betweenExample.count coreTurnPins = 115 := by
  intro s hs
  simp only [List.mem_cons, List.not_mem_nil, or_false] at hs
  rcases hs with rfl | rfl
  · exact ⟨by decide, inv_inputs (by constructor <;> simp [abc, base, SeqReachable]) _, rfl, rfl, betweenExample_ok⟩
  · exact ⟨by decide, inv_inputs inv_len55 _, rfl, rfl, betweenExample_ok⟩

/-- From `ERROR`: 55 bytes, then 56 bytes. -/
theorem test_witness_TransactionYieldsHash :
    (let m := List.replicate 55 (0x61 : Byte)
     let s := { failed with inputs := present 0x0100 :: (pushes m ++
       present 0x0300 :: (betweenExample ++ coreTurnPins :: [])) }
     CoreInv s ∧ s.ph = 0 ∧ m.length ≤ 55 ∧ (∀ p ∈ betweenExample, p.rst = false) ∧
       betweenExample.count coreTurnPins = 115) ∧
    (let m := List.replicate 56 (0x61 : Byte)
     let s := { failed with inputs := present 0x0100 :: (pushes m ++ present 0x0300 :: []) }
     CoreInv s ∧ s.ph = 0 ∧ 55 < m.length) :=
  ⟨⟨inv_inputs inv_failed _, rfl, by decide, betweenExample_ok⟩, ⟨inv_inputs inv_failed _, rfl, by decide⟩⟩

/-- Two states that differ in every register file and agree on what is live: "abc" stored, the rest stale. -/
theorem test_witness_StaleContentsNeverObserved :
    let t := { abc with
      ib := abc.ib.set 3 0xFF
      blk := Vector.replicate 64 0xEE
      w := Vector.replicate 64 1
      regs := ⟨1, 2, 3, 4, 5, 6, 7, 8⟩
      dg := Vector.replicate 8 9 }
    CoreInv abc ∧ Agree abc t ∧ abc ≠ t := by
  refine ⟨by constructor <;> simp [abc, base, SeqReachable], ?_, by decide⟩
  constructor <;> try rfl
  · intro k h hk
    have : k < 3 := hk
    simp [Vector.getElem_set]
    omega
  all_goals simp [abc, base]

end Sys2Proof.Tests
end

/-! Family 00_scope: the arithmetic laws (R6, R7, R8, R10), what a step runs (R12), and that stale contents are never
observed (R13, R41). -/

namespace Sys2Proof.Machine

/-! ### Arithmetic (R6, R7, R8, R10) -/

theorem toNat_add32 (x y : Word) : (add32 x y).toNat = (x.toNat + y.toNat) % 2 ^ 32 :=
  BitVec.toNat_add x y

theorem toNat_shr (x : Word) (n : Nat) : (shr x n).toNat = x.toNat / 2 ^ n := by
  rw [shr, BitVec.toNat_ushiftRight, Nat.shiftRight_eq_div_pow]

/-- Below bit `32 - n` a rotation shows the shifted word, from there on the bits that wrapped around (R7). -/
theorem getLsbD_rotr {x : Word} {n i : Nat} (hn : n ≤ 31) (hi : i < 32) :
    (rotr x n).getLsbD i = x.getLsbD ((i + n) % 32) := by
  simp only [rotr, BitVec.getLsbD_or, BitVec.getLsbD_ushiftRight, BitVec.getLsbD_shiftLeft, hi]
  by_cases hw : i < 32 - n
  · rw [Nat.mod_eq_of_lt (by omega), Nat.add_comm n i]
    simp [hw]
  · have hwrap : (i + n) % 32 = i - (32 - n) := by omega
    rw [hwrap, BitVec.getLsbD_of_ge x (n + i) (by omega)]
    simp [hw]

/-- Settles O41, from the three laws above. -/
theorem addRotateShift : Obligations.AddRotateShift :=
  ⟨toNat_add32, fun _ _ _ _ hn hi => getLsbD_rotr hn hi, fun x n _ _ => toNat_shr x n⟩

/-- Concatenation is a number in base `2 ^ m`. -/
theorem toNat_append_eq_mul_add {n m : Nat} (x : BitVec n) (y : BitVec m) :
    (x ++ y).toNat = x.toNat * 2 ^ m + y.toNat := by
  rw [BitVec.toNat_append, ← Nat.shiftLeft_add_eq_or_of_lt y.isLt, Nat.shiftLeft_eq]

theorem toNat_be32 (b0 b1 b2 b3 : Byte) :
    (be32 b0 b1 b2 b3).toNat = b0.toNat * 2 ^ 24 + b1.toNat * 2 ^ 16 + b2.toNat * 2 ^ 8 + b3.toNat := by
  simp only [be32, toNat_append_eq_mul_add]
  ring

/-- Packing the four bytes of a word gives the word back: the slices adjoin. -/
theorem be32_byteOf (w : Word) : be32 (byteOf 0 w) (byteOf 1 w) (byteOf 2 w) (byteOf 3 w) = w := by
  simp only [be32, byteOf]
  rw [BitVec.extractLsb'_append_extractLsb'_eq_extractLsb' (by rfl),
    BitVec.extractLsb'_append_extractLsb'_eq_extractLsb' (by rfl),
    BitVec.extractLsb'_append_extractLsb'_eq_extractLsb' (by rfl)]
  simp

/-- Settles O42: packing is base 256 with the lowest index most significant, and the byte views are its inverse. -/
theorem bigEndianPacking : Obligations.BigEndianPacking :=
  ⟨toNat_be32, be32_byteOf, fun _ _ _ => rfl, fun _ _ _ => rfl⟩

/-! ### What a step runs (R12) -/

theorem hostStep_of_decode {w : CmdWord} {i : Instr} (s : State) (h : decodeCommand w = .ok i) :
    hostStep w s = exec i s := by
  simp only [hostStep, h]

theorem hostStep_of_illegal {w : CmdWord} {e : DecodeError} (s : State) (h : decodeCommand w = .error e) :
    hostStep w s = .next (rejectIllegal s) := by
  simp only [hostStep, h]

/-- The idle sequencer value selects no micro-operation (R33, R89). -/
theorem not_idle_of_decodeSeq {s : State} {i : Instr} (h : decodeSeq s.seq = .ok i) : s.idle = false := by
  refine decide_eq_false fun ⟨hp, hi⟩ => ?_
  rw [State.seq, hp, hi, decodeSeq_append] at h
  cases h

theorem coreStep_of_decode {s : State} {i : Instr} (h : decodeSeq s.seq = .ok i) : coreStep s = exec i s := by
  simp [coreStep, not_idle_of_decodeSeq h, h]

/-- Settles O6: each kind of turn, by what the decoder answers. -/
theorem stepRunsDecodedInstruction : Obligations.StepRunsDecodedInstruction := by
  refine ⟨fun s w i ht hd => ?_, fun s w e ht hd => ?_, fun s i ht hd _ => ?_⟩
  · exact ⟨(step_hostTurn ht).trans (hostStep_of_decode _ hd), hostStep_of_decode _ hd⟩
  · exact (step_hostTurn ht).trans (hostStep_of_illegal _ hd)
  · exact (step_coreTurn ht).trans (coreStep_of_decode (s := takeInput s) hd)

/-- Settles O7: the transition only takes its pins off `inputs` and clears the response. -/
theorem idleCoreTurnChangesNothing : Obligations.IdleCoreTurnChangesNothing := fun s ht hp hi =>
  (step_coreTurn ht).trans (coreStep_idle (s := takeInput s) hp hi)

/-! ### Stale contents are never observed (R13, R41)

Agreement is kept by each shared update, from these by each instruction, and so by every transition. -/

/-- Both results are next states, and these agree. -/
def AgreeNext (r r' : Result) : Prop := ∃ s' t', r = .next s' ∧ r' = .next t' ∧ Agree s' t'

section Agreement

variable {s t : State}

theorem Agree.agreeNext (h : Agree s t) : AgreeNext (.next s) (.next t) := ⟨s, t, rfl, rfl, h⟩

/-! #### The shared updates -/

theorem Agree.takeInput (h : Agree s t) : Agree (takeInput s) (takeInput t) :=
  { h with inputs := congrArg List.tail h.inputs, rsp := rfl }

theorem Agree.respond (h : Agree s t) (c : RspCode) {d d' : Byte} (hd : d = d') :
    Agree (respond s c d) (respond t c d') :=
  { h with rsp := by rw [respond_rsp, respond_rsp, hd] }

theorem Agree.openInvocation (h : Agree s t) : Agree (openInvocation s) (openInvocation t) :=
  { h with
    len := rfl, ovf := rfl, done := rfl, err := rfl, ecode := rfl
    ib := by simp
    dg := by simp }

theorem Agree.raiseInputTooLong (h : Agree s t) : Agree (raiseInputTooLong s) (raiseInputTooLong t) :=
  { h with rsp := rfl, err := rfl, ecode := rfl }

theorem Agree.setOvf (h : Agree s t) : Agree { s with ovf := true } { t with ovf := true } :=
  { h with ovf := rfl }

/-- After a reset the core is idle with an empty input: nothing of the free datapath values is live (R210). -/
theorem Agree.applyReset (h : Agree s t) : Agree (applyReset s) (applyReset t) :=
  { h with
    len := rfl, ovf := rfl, ph := rfl, idx := rfl, done := rfl, err := rfl, ecode := rfl
    ib := by simp
    blk := by simp
    w_below := by simp
    w_all := by simp
    regs := by simp
    dg := by simp }

/-- `U.PAD` comes next, which reads only `IB` below `LEN` (R121). -/
theorem Agree.startSequencer (h : Agree s t) : Agree (setSeq s 1 0) (setSeq t 1 0) :=
  { h with
    ph := rfl, idx := rfl
    blk := by simp
    w_below := by simp
    w_all := by simp
    regs := by simp }

/-- The byte stored is the one that `LEN` newly covers (R103). -/
theorem Agree.storeByte (h : Agree s t) (b : Byte) (hl : s.len.toNat < 55) :
    Agree { s with ib := writeIB s.ib s.len b, len := s.len + 1 }
      { t with ib := writeIB t.ib t.len b, len := t.len + 1 } :=
  { h with
    len := congrArg (· + 1) h.len
    ib := fun k hk hlt => by
      simp only [toNat_succ_of_lt (show s.len.toNat < 63 by omega)] at hlt
      simp only [getElem_writeIB, ← h.len]
      split
      · rfl
      · exact h.ib k hk (by omega) }

/-! #### The gates and the host commands -/

theorem Agree.unlessBusy {k k' : State} (h : Agree s t) (hk : Agree k k') :
    Agree (unlessBusy s k) (unlessBusy t k') := by
  simp only [Machine.unlessBusy, ← h.ph]
  split
  · exact h.respond _ rfl
  · exact hk

theorem Agree.unlessEnded {k k' : State} (h : Agree s t) (hk : Agree k k') :
    Agree (unlessEnded s k) (unlessEnded t k') := by
  simp only [Machine.unlessEnded, ← h.done, ← h.err]
  split
  · exact h.respond _ rfl
  · exact hk

/-- The gated meaning need only agree while a digest exists. -/
theorem Agree.unlessNoDigest {k k' : State} (h : Agree s t) (hk : s.done = true → Agree k k') :
    Agree (unlessNoDigest s k) (unlessNoDigest t k') := by
  simp only [Machine.unlessNoDigest, ← h.done]
  split
  · exact h.respond _ rfl
  · exact hk (Bool.eq_true_of_not_eq_false ‹_›)

theorem Agree.status_eq (h : Agree s t) : s.status = t.status := by
  simp only [State.status, State.busy, h.ovf, h.err, h.done, h.ph]

theorem Agree.execPush (h : Agree s t) (b : Byte) : AgreeNext (execPush b s) (execPush b t) := by
  refine (h.unlessBusy (h.unlessEnded ?_)).agreeNext
  have hlen : (t.len.toNat < 55) = (s.len.toNat < 55) := by rw [h.len]
  simp only [hlen]
  split
  · exact (h.storeByte b ‹_›).respond _ rfl
  · exact h.setOvf.respond _ rfl

theorem Agree.execHash (h : Agree s t) : AgreeNext (execHash s) (execHash t) := by
  refine (h.unlessBusy (h.unlessEnded ?_)).agreeNext
  rw [← h.ovf]
  split
  · exact h.raiseInputTooLong
  · exact h.startSequencer.respond _ rfl

theorem Agree.execRdd (h : Agree s t) (j : BitVec 5) : AgreeNext (execRdd j s) (execRdd j t) := by
  have hread (hd : s.done = true) := h.respond .ok (congrArg (doutByte · j) (h.dg hd))
  exact (h.unlessBusy (h.unlessNoDigest hread)).agreeNext

theorem Agree.exec_command (h : Agree s t) {i : Instr} (hi : i.isCommand = true) :
    AgreeNext (exec i s) (exec i t) := by
  cases i with
  | nop => exact (h.respond _ rfl).agreeNext
  | init => exact (h.unlessBusy (h.openInvocation.respond _ rfl)).agreeNext
  | push b => exact h.execPush b
  | hash => exact h.execHash
  | rds => exact (h.respond _ h.status_eq).agreeNext
  | rdl => exact (h.respond _ (congrArg (BitVec.setWidth 8) h.len)).agreeNext
  | rde => exact (h.respond _ h.ecode).agreeNext
  | rdd j => exact h.execRdd j
  | uPad | uLdw | uExp _ | uIni | uRnd _ | uFin => cases hi

theorem isCommand_of_decodeCommand {w : CmdWord} {i : Instr} (h : decodeCommand w = .ok i) :
    i.isCommand = true := by
  simp only [decodeCommand] at h
  split_ifs at h <;> cases h <;> rfl

theorem Agree.hostStep (h : Agree s t) (w : CmdWord) : AgreeNext (hostStep w s) (hostStep w t) := by
  cases hd : decodeCommand w with
  | ok i =>
    rw [hostStep_of_decode s hd, hostStep_of_decode t hd]
    exact h.exec_command (isCommand_of_decodeCommand hd)
  | error e =>
    rw [hostStep_of_illegal s hd, hostStep_of_illegal t hd]
    exact (h.respond _ rfl).agreeNext

/-! #### The sequencer's writes: agreement on what the next phase reads -/

/-- `U.LDW` reads `BLK` only. -/
theorem Agree.writeBlk (h : Agree s t) {x x' : Vector Byte 64} (hx : x = x') :
    Agree (setSeq { s with blk := x } 2 0) (setSeq { t with blk := x' } 2 0) :=
  { h with
    ph := rfl, idx := rfl
    blk := fun _ => hx
    w_below := by simp
    w_all := by simp
    regs := by simp }

/-- `U.EXP i` reads `W` below `i`, and `U.INI` hands on all of `W`. -/
theorem Agree.writeW (h : Agree s t) {w w' : Vector Word 64} {p : BitVec 3} {i : BitVec 6} (hp : p = 3 ∨ p = 4)
    (hbelow : p = 3 → ∀ (k : Nat) (hk : k < 64), k < i.toNat → w[k] = w'[k]) (hall : p = 4 → w = w') :
    Agree (setSeq { s with w := w } p i) (setSeq { t with w := w' } p i) :=
  { h with
    ph := rfl, idx := rfl
    blk := by rcases hp with rfl | rfl <;> simp
    w_below := hbelow
    w_all := by rcases hp with rfl | rfl <;> simp [hall]
    regs := by rcases hp with rfl | rfl <;> simp }

/-- `U.RND` reads `W` and the working registers, `U.FIN` the working registers only. -/
theorem Agree.writeRegs (h : Agree s t) {x x' : Working} {p : BitVec 3} {i : BitVec 6} (hp : p = 5 ∨ p = 6)
    (hx : x = x') (hw : s.w = t.w) : Agree (setSeq { s with regs := x } p i) (setSeq { t with regs := x' } p i) :=
  { h with
    ph := rfl, idx := rfl
    blk := by rcases hp with rfl | rfl <;> simp
    w_below := by rcases hp with rfl | rfl <;> simp
    w_all := fun _ => hw
    regs := fun _ => hx }

/-- From `DONE` on the digest is all that is read. -/
theorem Agree.writeDg (h : Agree s t) {x x' : Vector Word 8} (hx : x = x') :
    Agree (setSeq { s with dg := x, done := true } 0 0) (setSeq { t with dg := x', done := true } 0 0) :=
  { h with
    ph := rfl, idx := rfl, done := rfl
    blk := by simp
    w_below := by simp
    w_all := by simp
    regs := by simp
    dg := fun _ => hx }

/-! #### The micro-operations: what each reads is live in its phase -/

theorem padByte_congr {ib ib' : Vector Byte 55} {n : Nat} (h : ∀ (k : Nat) (hk : k < 55), k < n → ib[k] = ib'[k])
    (i : Nat) : padByte ib n i = padByte ib' n i := by
  unfold padByte
  split
  · exact h i _ (And.left ‹_›)
  · rfl

theorem expandWord_congr {w w' : Vector Word 64} {i : Nat} (hi : i < 64) (hlo : 16 ≤ i)
    (h : ∀ (k : Nat) (hk : k < 64), k < i → w[k] = w'[k]) : expandWord w i hi = expandWord w' i hi := by
  simp only [expandWord, h (i - 16) _ (by omega), h (i - 15) _ (by omega), h (i - 7) _ (by omega),
    h (i - 2) _ (by omega)]

/-- `W[i]` set to the same word in both files extends agreement below `i` by one index. -/
theorem getElem_set_congr {w w' : Vector Word 64} {i : Nat} (hi : i < 64) (x : Word)
    (h : ∀ (k : Nat) (hk : k < 64), k < i → w[k] = w'[k]) (k : Nat) (hk : k < 64) (hki : k ≤ i) :
    (w.set i x)[k] = (w'.set i x)[k] := by
  simp only [Vector.getElem_set]
  split
  · rfl
  · exact h k hk (by omega)

theorem Agree.execUPad (h : Agree s t) (hl : s.len.toNat ≤ 55) : AgreeNext (execUPad s) (execUPad t) := by
  rw [execUPad_of_le hl, execUPad_of_le (h.len ▸ hl)]
  exact (h.writeBlk (by simp only [padByte_congr h.ib, ← h.len])).agreeNext

theorem Agree.execULdw (h : Agree s t) (hp : s.ph = 2) : AgreeNext (execULdw s) (execULdw t) := by
  refine (h.writeW (.inl rfl) (fun _ k hk hlt => ?_) (by simp)).agreeNext
  have hk16 : k < 16 := hlt
  simp [hk16, h.blk hp]

/-- After `U.EXP i` the words up to `i` agree; after the last one these are all of `W`. -/
theorem Agree.execUExp (h : Agree s t) (hp : s.ph = 3) (hi : 16 ≤ s.idx.toNat) :
    AgreeNext (execUExp s.idx s) (execUExp s.idx t) := by
  have hw := getElem_set_congr s.idx.isLt (expandWord s.w s.idx.toNat s.idx.isLt) (h.w_below hp)
  rw [execUExp_of_le hi, execUExp_of_le hi, ← expandWord_congr s.idx.isLt hi (h.w_below hp)]
  by_cases hlast : s.idx.toNat < 63
  · simp only [hlast, if_true]
    refine (h.writeW (.inl rfl) (fun _ k hk hlt => hw k hk ?_) (by simp)).agreeNext
    rw [toNat_succ_of_lt hlast] at hlt
    omega
  · simp only [hlast, if_false]
    exact (h.writeW (.inr rfl) (by simp) fun _ => Vector.ext fun k hk => hw k hk (by omega)).agreeNext

theorem Agree.execUIni (h : Agree s t) (hp : s.ph = 4) : AgreeNext (execUIni s) (execUIni t) :=
  (h.writeRegs (.inl rfl) rfl (h.w_all (.inl hp))).agreeNext

theorem Agree.execURnd (h : Agree s t) (hp : s.ph = 5) (i : BitVec 6) : AgreeNext (execURnd i s) (execURnd i t) := by
  have hw := h.w_all (.inr hp)
  rw [execURnd_eq, execURnd_eq]
  refine (h.writeRegs ?_ (by rw [h.regs (.inl hp), hw]) hw).agreeNext
  split <;> simp

theorem Agree.execUFin (h : Agree s t) (hp : s.ph = 6) : AgreeNext (execUFin s) (execUFin t) :=
  (h.writeDg (congrArg accumulate (h.regs (.inr hp)))).agreeNext

/-- One case per row of the table of R33. -/
theorem Agree.coreStep (h : Agree s t) (hs : SeqReachable s.ph s.idx) (hl : s.len.toNat ≤ 55) :
    AgreeNext (coreStep s) (coreStep t) := by
  have hph := h.ph
  have hidx := h.idx
  rcases hs with ⟨p, i⟩ | ⟨p, i⟩ | ⟨p, i⟩ | ⟨p, i⟩ | ⟨p, i⟩ | p | ⟨p, i⟩
  · rw [coreStep_idle p i, coreStep_idle (hph ▸ p) (hidx ▸ i)]
    exact h.agreeNext
  · rw [coreStep_pad p i, coreStep_pad (hph ▸ p) (hidx ▸ i)]
    exact h.execUPad hl
  · rw [coreStep_ldw p i, coreStep_ldw (hph ▸ p) (hidx ▸ i)]
    exact h.execULdw p
  · rw [coreStep_exp p, coreStep_exp (hph ▸ p), ← hidx]
    exact h.execUExp p i
  · rw [coreStep_ini p i, coreStep_ini (hph ▸ p) (hidx ▸ i)]
    exact h.execUIni p
  · rw [coreStep_rnd p, coreStep_rnd (hph ▸ p), ← hidx]
    exact h.execURnd p _
  · rw [coreStep_fin p i, coreStep_fin (hph ▸ p) (hidx ▸ i)]
    exact h.execUFin p

theorem Agree.pins_eq (h : Agree s t) : s.pins = t.pins := by
  simp only [State.pins, h.inputs]

end Agreement

/-- Settles O57, by the kind of turn, which the two states share. -/
theorem staleContentsNeverObserved : Obligations.StaleContentsNeverObserved := by
  intro s t inv h
  show AgreeNext (step s) (step t)
  rcases turn_cases s with ht | ⟨w, ht⟩ | ht
  · rw [step_reset ht, step_reset (h.pins_eq ▸ ht)]
    exact h.takeInput.applyReset.agreeNext
  · rw [step_hostTurn ht, step_hostTurn (h.pins_eq.symm.trans ht)]
    exact h.takeInput.hostStep w
  · rw [step_coreTurn ht, step_coreTurn (h.pins_eq.symm.trans ht)]
    exact h.takeInput.coreStep inv.seq_reachable inv.len_le

end Sys2Proof.Machine

/-! Family 10_state: the values after reset (R42), the invariant of the reachable states (R40, R33), the sequencer's table
(R33), the digest view (R28) and the collection of the input (R21 to R23, R181). -/

namespace Sys2Proof.Machine

/-! ### After reset (R42) -/

/-- Settles O11: the control registers as `State.reset` writes them, and the views of them. -/
theorem resetStateValues : Obligations.ResetStateValues :=
  ⟨rfl, rfl, rfl, rfl, rfl, rfl, rfl, rfl, top_collect_iff.2 ⟨rfl, rfl, rfl⟩, List.take_zero, rfl, rfl, rfl⟩

/-! ### The invariant of the reachable states (R40, R33)

Each shared update keeps it, from these each effect of a command and each micro-operation, and so every transition. -/

/-- An idle state with an empty input and no flag set has the invariant: after reset and after `INIT`. -/
theorem coreInv_of_cleared {s : State} (hp : s.ph = 0) (hi : s.idx = 0) (hl : s.len = 0) (ho : s.ovf = false)
    (hd : s.done = false) (he : s.err = false) (hc : s.ecode = 0x00) : CoreInv s where
  seq_reachable := .inl ⟨hp, hi⟩
  len_le := by simp [hl]
  ovf_len := by simp [ho]
  computing := fun _ => ⟨hd, he, ho⟩
  not_both := by simp [hd]
  done_ovf := fun _ => ho
  err_ovf := by simp [he]
  err_ecode := by simp [he, hc]
  ecode_range := .inl hc

/-- Settles O46: reset clears every control register. -/
theorem resetSatisfiesInvariant : Obligations.ResetSatisfiesInvariant :=
  coreInv_of_cleared rfl rfl rfl rfl rfl rfl rfl

section Invariant

variable {s t : State}

theorem coreInv_applyReset (s : State) : CoreInv (applyReset s) := coreInv_of_cleared rfl rfl rfl rfl rfl rfl rfl

theorem CoreInv.takeInput (h : CoreInv s) : CoreInv (takeInput s) := { h with }

/-- A sequencer write needs every flag clear, because it may leave `PH ≠ 0`. -/
theorem CoreInv.setSeq (h : CoreInv s) {p : BitVec 3} {i : BitVec 6} (hs : SeqReachable p i)
    (hf : s.done = false ∧ s.err = false ∧ s.ovf = false) : CoreInv (setSeq s p i) :=
  { h with seq_reachable := hs, computing := fun _ => hf }

/-- A byte is stored below index 55, where `OVF` is not set (R103). -/
theorem CoreInv.storeByte (h : CoreInv s) (hl : s.len.toNat < 55) (b : Byte) :
    CoreInv { s with ib := writeIB s.ib s.len b, len := s.len + 1 } :=
  have hlen := toNat_succ_of_lt (show s.len.toNat < 63 by omega)
  { h with
    len_le := by
      show (s.len + 1).toNat ≤ 55
      omega
    ovf_len := fun ho => absurd (h.ovf_len ho) (by omega) }

/-- `OVF` is set with the buffer full, outside a computation and with no digest (R103). -/
theorem CoreInv.setOvf (h : CoreInv s) (hp : s.ph = 0) (hd : s.done = false) (hl : 55 ≤ s.len.toNat) :
    CoreInv { s with ovf := true } :=
  { h with
    ovf_len := fun _ => Nat.le_antisymm h.len_le hl
    computing := fun hb => absurd hp hb
    done_ovf := by simp [hd]
    err_ovf := fun _ => rfl }

/-- `InputTooLong` is raised with `OVF = 1`, outside a computation and with no digest (R187). -/
theorem CoreInv.raiseInputTooLong (h : CoreInv s) (hp : s.ph = 0) (hd : s.done = false) (ho : s.ovf = true) :
    CoreInv (raiseInputTooLong s) :=
  { h with
    computing := fun hb => absurd hp hb
    not_both := by simp [hd]
    err_ovf := fun _ => ho
    err_ecode := by simp
    ecode_range := .inr rfl }

/-- The invariant speaks of control registers only. -/
theorem CoreInv.writeDatapath (h : CoreInv s) (blk : Vector Byte 64) (w : Vector Word 64) (regs : Working) :
    CoreInv { s with blk := blk, w := w, regs := regs } := { h with }

/-- `U.FIN` ends a computation, during which every flag is clear (R160). -/
theorem CoreInv.finish (h : CoreInv s) (hf : s.done = false ∧ s.err = false ∧ s.ovf = false) (dg : Vector Word 8) :
    CoreInv (Machine.setSeq { s with dg := dg, done := true } 0 0) :=
  have ⟨_, he, ho⟩ := hf
  { h with
    seq_reachable := .inl ⟨rfl, rfl⟩
    computing := fun hb => absurd rfl hb
    not_both := by simp [he]
    done_ovf := fun _ => ho }

theorem CoreInv.respond (h : CoreInv s) (c : RspCode) (d : Byte) : CoreInv (respond s c d) := { h with }

/-- Every effect a host command can have keeps the invariant. -/
theorem CoreInv.of_commandEffect (h : CoreInv s) (e : CommandEffect s t) : CoreInv t := by
  cases e with
  | answer c d _ => exact h.respond c d
  | opened hp => exact coreInv_of_cleared hp (h.idx_of_idle hp) rfl rfl rfl rfl rfl
  | stored b _ _ _ hl => exact (h.storeByte hl b).respond _ _
  | overflowed hp hd _ hl => exact (h.setOvf hp hd hl).respond _ _
  | raised hp hd _ ho => exact h.raiseInputTooLong hp hd ho
  | started hp hd he ho =>
    have hpad : SeqReachable 1 0 := .inr (.inl ⟨rfl, rfl⟩)
    exact (h.setSeq hpad ⟨hd, he, ho⟩).respond _ _

/-- From `U.EXP i` the sequencer goes to the next index or on to `U.INI`. -/
theorem seqReachable_after_uExp {i : BitVec 6} (hi : 16 ≤ i.toNat) :
    SeqReachable (if i.toNat < 63 then 3 else 4) (if i.toNat < 63 then i + 1 else 0) := by
  by_cases hlast : i.toNat < 63
  · have := toNat_succ_of_lt hlast
    simp only [hlast, if_true]
    exact .inr (.inr (.inr (.inl ⟨rfl, by omega⟩)))
  · simp [hlast, SeqReachable]

/-- From `U.RND i` the sequencer goes to the next round or on to `U.FIN`. -/
theorem seqReachable_after_uRnd (i : BitVec 6) :
    SeqReachable (if i.toNat < 63 then 5 else 6) (if i.toNat < 63 then i + 1 else 0) := by
  by_cases hlast : i.toNat < 63 <;> simp [hlast, SeqReachable]

/-- One case per row of the table of R33. While the core computes every flag is clear, and a micro-operation other than
`U.FIN` writes datapath registers and the sequencer only. -/
theorem CoreInv.of_coreStep (h : CoreInv s) (e : coreStep s = .next t) : CoreInv t := by
  have flags {p : BitVec 3} (hp : s.ph = p) (hne : p ≠ 0) := h.computing (hp ▸ hne)
  rcases coreStep_cases h.seq_reachable h.len_le with ⟨_, _, c⟩ | ⟨p, _, c⟩ | ⟨p, _, c⟩ | ⟨p, i, c⟩ | ⟨p, _, c⟩ |
    ⟨p, c⟩ | ⟨p, _, c⟩ <;> obtain rfl := Host.Outcome.next.inj (c.symm.trans e)
  · exact h
  · exact (h.writeDatapath _ _ _).setSeq (by simp [SeqReachable]) (flags p (by decide))
  · exact (h.writeDatapath _ _ _).setSeq (by simp [SeqReachable]) (flags p (by decide))
  · exact (h.writeDatapath _ _ _).setSeq (seqReachable_after_uExp i) (flags p (by decide))
  · exact (h.writeDatapath _ _ _).setSeq (by simp [SeqReachable]) (flags p (by decide))
  · exact (h.writeDatapath _ _ _).setSeq (seqReachable_after_uRnd _) (flags p (by decide))
  · exact h.finish (flags p (by decide)) _

end Invariant

/-- Settles O47, by the kind of turn. -/
theorem everyStepKeepsInvariant : Obligations.EveryStepKeepsInvariant := by
  intro s t h e
  rcases turn_cases s with ht | ⟨w, ht⟩ | ht
  · obtain rfl := Host.Outcome.next.inj ((step_reset ht).symm.trans e)
    exact coreInv_applyReset _
  · obtain ⟨u, hu, effect⟩ := hostStep_next w (takeInput s)
    obtain rfl := Host.Outcome.next.inj (hu.symm.trans ((step_hostTurn ht).symm.trans e))
    exact h.takeInput.of_commandEffect effect
  · exact h.takeInput.of_coreStep ((step_coreTurn ht).symm.trans e)

/-! ### The sequencer's table (R33) -/

/-- Settles O49: each row of the table is the phase's micro-operation, and no other row applies in that phase. In phases 3 and 5
the last index, 63, leads on to the next phase. -/
theorem sequencerFollowsTable : Obligations.SequencerFollowsTable := by
  intro s t h ht e
  rw [step_coreTurn ht] at e
  replace h := h.takeInput
  rw [← takeInput_ph s, ← takeInput_idx s]
  generalize takeInput s = u at h e ⊢
  rcases coreStep_cases h.seq_reachable h.len_le with ⟨p, i, c⟩ | ⟨p, _, c⟩ | ⟨p, _, c⟩ | ⟨p, _, c⟩ | ⟨p, _, c⟩ |
    ⟨p, c⟩ | ⟨p, _, c⟩ <;> obtain rfl := Host.Outcome.next.inj (c.symm.trans e)
  · simp [p, i]
  · simp [p]
  · simp [p]
  · by_cases hlast : u.idx.toNat < 63 <;> simp [p, hlast] <;> omega
  · simp [p]
  · by_cases hlast : u.idx.toNat < 63 <;> simp [p, hlast] <;> omega
  · simp [p]

/-! ### The digest view (R28) -/

/-- `byte_k(w)` as a number (R10): the bits below it divided away. -/
theorem toNat_byteOf (k : Nat) (w : Word) : (byteOf k w).toNat = w.toNat / 2 ^ (8 * (3 - k)) % 256 := by
  rw [byteOf, BitVec.extractLsb'_toNat, Nat.shiftRight_eq_div_pow, Nat.mul_sub]

/-- Four consecutive bytes of the view are the bytes of one digest word. -/
theorem doutByte_of_toNat {j : BitVec 5} (dg : Vector Word 8) {q k : Nat} (hq : q < 8) (hk : k < 4)
    (hj : j.toNat = 4 * q + k) : doutByte dg j = byteOf k dg[q] := by
  have hdiv : j.toNat / 4 = q := by omega
  have hmod : j.toNat % 4 = k := by omega
  simp only [doutByte, hdiv, hmod]

theorem getElem_serialize (dg : Vector Word 8) {q k : Nat} (hq : q < 8) (hk : k < 4) (hj : 4 * q + k < 32) :
    (serialize dg)[4 * q + k] = byteOf k dg[q] := by
  rw [serialize, Vector.getElem_ofFn]
  exact doutByte_of_toNat dg hq hk rfl

/-- Settles O20: both views show `byte_k` of word `q`, which is the slice by definition. -/
theorem digestViewBigEndian : Obligations.DigestViewBigEndian := by
  intro dg q k hq hk hj
  refine ⟨getElem_serialize dg hq hk hj, doutByte_of_toNat dg hq hk ?_, ?_⟩
  · rw [BitVec.toNat_ofNat, Nat.mod_eq_of_lt hj]
  · rw [getElem_serialize dg hq hk hj, toNat_byteOf]

/-! ### Collecting the input (R21, R22, R23, R103, R181) -/

theorem decodeCommand_push (b : Byte) : decodeCommand (cmdWord 0x02 b) = .ok (.push b) := by
  simp [decodeCommand]

/-- `PUSH b` in `COLLECT` with room for the byte (R103). -/
theorem execPush_of_room {s : State} (b : Byte) (hp : s.ph = 0) (hd : s.done = false) (he : s.err = false)
    (hl : s.len.toNat < 55) :
    execPush b s = .next (respond { s with ib := writeIB s.ib s.len b, len := s.len + 1 } .ok 0x00) := by
  rw [execPush, unlessBusy_of_idle hp, unlessEnded_of_open hd he, if_pos hl]

/-- `PUSH b` in `COLLECT` with the buffer full (R103). -/
theorem execPush_of_full {s : State} (b : Byte) (hp : s.ph = 0) (hd : s.done = false) (he : s.err = false)
    (hl : ¬ s.len.toNat < 55) : execPush b s = .next (respond { s with ovf := true } .ok 0x00) := by
  rw [execPush, unlessBusy_of_idle hp, unlessEnded_of_open hd he, if_neg hl]

/-- The byte stored is appended to the input. -/
theorem input_storeByte {s : State} (b : Byte) (hl : s.len.toNat < 55) :
    ({ s with ib := writeIB s.ib s.len b, len := s.len + 1 } : State).input = s.input ++ [b] := by
  simp only [State.input, toNat_succ_of_lt (show s.len.toNat < 63 by omega), writeIB]
  rw [Vector.toList_setIfInBounds, List.take_add_one, List.take_set_of_le le_rfl]
  simp [hl]

/-- `t` is what a core in `COLLECT` with an empty input has become once the bytes `m` have been pushed; `s` is where it
started, which fixes the registers that no `PUSH` writes. -/
structure Collected (s : State) (m : List Byte) (t : State) : Prop where
  input : t.input = m.take 55
  len : t.len.toNat = min m.length 55
  ovf : t.ovf = true ↔ 55 < m.length
  ph : t.ph = 0
  idx : t.idx = s.idx
  done : t.done = false
  err : t.err = false
  ecode : t.ecode = s.ecode

section Collecting

variable {s t : State} {m : List Byte}

/-- One more byte: stored while fewer than 55 are, else only `OVF` is set. -/
theorem Collected.step_push (h : Collected s m t) {b : Byte} {rest : List Pins}
    (hi : t.inputs = present (cmdWord 0x02 b) :: rest) :
    ∃ u, step t = .next u ∧ u.inputs = rest ∧ Collected s (m ++ [b]) u := by
  have hturn : State.hostTurn t (cmdWord 0x02 b) := pins_cons t _ rest hi
  have hstep : step t = execPush b (takeInput t) :=
    (step_hostTurn hturn).trans (hostStep_of_decode _ (decodeCommand_push b))
  have htail : (takeInput t).inputs = rest := by simp [hi]
  have hlen := h.len
  by_cases hl : t.len.toNat < 55
  · have hm : m.length < 55 := by omega
    refine ⟨_, hstep.trans (execPush_of_room b h.ph h.done h.err hl), htail,
      { h with input := ?_, len := ?_, ovf := ?_ }⟩
    · rw [input_respond, input_storeByte (s := takeInput t) b hl, input_takeInput, h.input,
        List.take_of_length_le hm.le, List.take_of_length_le (by simpa using hm)]
    · simp
      omega
    · simp [h.ovf]
      omega
  · have hm : 55 ≤ m.length := by omega
    refine ⟨_, hstep.trans (execPush_of_full b h.ph h.done h.err hl), htail,
      { h with input := ?_, len := ?_, ovf := ?_ }⟩
    · exact h.input.trans (List.take_append_of_le_length hm).symm
    · simp [hlen]
      omega
    · simp
      omega

/-- Pushing the bytes `n` after `m` collects `m ++ n`. -/
theorem Collected.run_pushes {n : List Byte} {rest : List Pins} (h : Collected s m t)
    (hi : t.inputs = n.map (fun b => present (cmdWord 0x02 b)) ++ rest) :
    ∃ u, State.run n.length t = .next u ∧ u.inputs = rest ∧ Collected s (m ++ n) u := by
  induction n generalizing m t with
  | nil => exact ⟨t, run_zero t, hi, by simpa using h⟩
  | cons b n ih =>
    obtain ⟨u, hu, hrest, hc⟩ := h.step_push hi
    obtain ⟨v, hv, hvrest, hvc⟩ := ih hc hrest
    exact ⟨v, (run_succ _ hu).trans hv, hvrest, by simpa using hvc⟩

end Collecting

/-- Settles O53: nothing has been collected at the start. -/
theorem pushesCollectInput : Obligations.PushesCollectInput := by
  intro m s rest hi hp hd he ho hl
  have start : Collected s [] s :=
    ⟨by simp [State.input, hl], by simp [hl], by simp [ho], hp, rfl, hd, he, rfl⟩
  obtain ⟨t, hrun, hrest, hc⟩ := start.run_pushes hi
  exact ⟨t, hrun, hrest, hc.input, hc.len, hc.ovf, hc.ph, hc.idx, hc.done, hc.err, hc.ecode⟩

end Sys2Proof.Machine

/-! Family 20_memory: what each host command and each micro-operation leaves unchanged (R65), and that the four reads
have no side effect (R67). -/

namespace Sys2Proof.Machine

section HostCommands

variable {i : Instr} {s t k : State}

/-! ### The host commands (R65, R101 to R108)

`CommandEffect` lists the effects a command can have and when it has them; a frame asks whose effect each one is. -/

/-- Each effect with the command that has it. Any command may do no more than answer; `NOP` and the four reads never do
more. -/
inductive EffectOf (s : State) : Instr → State → Prop where
  | answer (i : Instr) (c : RspCode) (d : Byte) : EffectOf s i (respond s c d)
  | opened : EffectOf s .init (respond (openInvocation s) .ok 0x00)
  | stored (b : Byte) :
      EffectOf s (.push b) (respond { s with ib := writeIB s.ib s.len b, len := s.len + 1 } .ok 0x00)
  | overflowed (b : Byte) : EffectOf s (.push b) (respond { s with ovf := true } .ok 0x00)
  | raised : EffectOf s .hash (raiseInputTooLong s)
  | started : EffectOf s .hash (respond (setSeq s 1 0) .ok 0x00)

/-! A gate in front of an effect answers or lets through. -/

theorem EffectOf.unlessBusy (h : EffectOf s i k) : EffectOf s i (unlessBusy s k) := by
  rcases unlessBusy_cases s k with ⟨_, e⟩ | ⟨_, e⟩ <;> rw [e]
  · exact .answer ..
  · exact h

theorem EffectOf.unlessEnded (h : EffectOf s i k) : EffectOf s i (unlessEnded s k) := by
  rcases unlessEnded_cases s k with ⟨_, e⟩ | ⟨_, e⟩ <;> rw [e]
  · exact .answer ..
  · exact h

theorem EffectOf.unlessNoDigest (h : EffectOf s i k) : EffectOf s i (unlessNoDigest s k) := by
  rcases unlessNoDigest_cases s k with ⟨_, e⟩ | ⟨_, e⟩ <;> rw [e]
  · exact .answer ..
  · exact h

/-- The next state of a command is one of its own effects. -/
theorem effectOf_exec (hi : i.isCommand = true) (e : exec i s = .next t) : EffectOf s i t := by
  cases i with
  | nop | rds | rdl | rde => cases e; exact .answer ..
  | init => cases e; exact EffectOf.opened.unlessBusy
  | push b =>
    cases e
    refine EffectOf.unlessBusy (EffectOf.unlessEnded ?_)
    split
    · exact .stored b
    · exact .overflowed b
  | hash =>
    cases e
    refine EffectOf.unlessBusy (EffectOf.unlessEnded ?_)
    split
    · exact .raised
    · exact .started
  | rdd j => cases e; exact EffectOf.unlessBusy (EffectOf.unlessNoDigest (.answer ..))
  | uPad | uLdw | uExp _ | uIni | uRnd _ | uFin => cases hi

end HostCommands

/-- A store leaves every byte of `IB` but the one at the index stored to. -/
theorem getElem_writeIB_ne (ib : Vector Byte 55) {len : BitVec 6} (b : Byte) {k : Nat} (h : k < 55)
    (hne : k ≠ len.toNat) : (writeIB ib len b)[k] = ib[k] := by
  rw [getElem_writeIB, if_neg (Ne.symm hne)]

/-- Settles O25, by the effect of the command: a stored byte leaves the other indices of `IB`, and every other effect
writes control registers and the response only. -/
theorem hostCommandFrame : Obligations.HostCommandFrame := by
  intro i s t hi e
  cases effectOf_exec hi e with
  | answer _ c d => simp
  | opened => simp
  | stored b => simpa using fun k h hne => getElem_writeIB_ne s.ib b h hne
  | overflowed b => simp
  | raised => simp
  | started => simp

/-! ### The reads (R67, R105 to R108) -/

/-- No host command reads what the response pins showed before: it answers, and that overwrites them. -/
theorem exec_respond {i : Instr} (s : State) (c : RspCode) (d : Byte) (hi : i.isCommand = true) :
    exec i (respond s c d) = exec i s := by
  cases i with
  | nop | init | push b | hash | rds | rdl | rde | rdd j => rfl
  | uPad | uLdw | uExp _ | uIni | uRnd _ | uFin => cases hi

/-- Settles O26: a read only answers, and the answer does not depend on the one before. -/
theorem readsHaveNoSideEffect : Obligations.ReadsHaveNoSideEffect := by
  intro i s t hi e
  have hcmd : i.isCommand = true := by rcases hi with rfl | rfl | rfl | ⟨j, rfl⟩ <;> rfl
  obtain ⟨c, d, rfl⟩ : ∃ c d, t = respond s c d := by
    rcases hi with rfl | rfl | rfl | ⟨j, rfl⟩ <;> cases effectOf_exec hcmd e <;> exact ⟨_, _, rfl⟩
  exact ⟨rfl, (exec_respond s c d hcmd).trans e⟩

/-! ### The micro-operations (R65, R121, R132, R133, R144, R145, R160) -/

section MicroOps

variable {s t : State}

/-- `U.PAD` has a next state for an input of at most 55 bytes only (R120). -/
theorem len_le_of_execUPad (e : execUPad s = .next t) : s.len.toNat ≤ 55 := by
  by_contra hl
  rw [execUPad, maxInput, if_neg hl] at e
  cases e

/-- `U.EXP i` has a next state from `i = 16` on only (R89). -/
theorem le_of_execUExp {i : BitVec 6} (e : execUExp i s = .next t) : 16 ≤ i.toNat := by
  by_contra hi
  rw [execUExp, if_neg hi] at e
  cases e

end MicroOps

/-- Settles O40: each micro-operation writes its own register file and the sequencer, and `U.FIN` writes `DONE` too. Only
the two that write `W` in part need their indices looked at. -/
theorem microOpFrame : Obligations.MicroOpFrame := by
  intro i s t hi e
  cases i with
  | uPad =>
    obtain rfl := Host.Outcome.next.inj ((execUPad_of_le (len_le_of_execUPad e)).symm.trans e)
    simp
  | uLdw =>
    cases e
    simp +contextual [Nat.not_lt_of_ge]
  | uExp n =>
    obtain rfl := Host.Outcome.next.inj ((execUExp_of_le (le_of_execUExp e)).symm.trans e)
    simpa using fun k h hne => Vector.getElem_set_ne n.isLt h (Ne.symm hne)
  | uIni => cases e; simp
  | uRnd n =>
    obtain rfl := Host.Outcome.next.inj ((execURnd_eq n s).symm.trans e)
    simp
  | uFin => cases e; simp
  | nop | init | push _ | hash | rds | rdl | rde | rdd _ => cases hi

end Sys2Proof.Machine

/-! Family 30_encoding: the encoding tables and the decoder (R84 to R86, R88, R92), the sequencer values that have no step
(R89), and the responses (R82, R83). -/

namespace Sys2Proof

/-! ### Decoding and encoding are inverse (R84, R88, R92) -/

/-- The command selected, by the two fields of the word. -/
theorem decodeCommand_cmdWord (op imm : Byte) :
    decodeCommand (cmdWord op imm) =
      if op = 0x00 ∧ imm = 0x00 then .ok .nop
      else if op = 0x01 ∧ imm = 0x00 then .ok .init
      else if op = 0x02 then .ok (.push imm)
      else if op = 0x03 ∧ imm = 0x00 then .ok .hash
      else if op = 0x04 ∧ imm = 0x00 then .ok .rds
      else if op = 0x04 ∧ imm = 0x01 then .ok .rdl
      else if op = 0x04 ∧ imm = 0x02 then .ok .rde
      else if op = 0x05 ∧ imm.extractLsb' 5 3 = 0 then .ok (.rdd (imm.extractLsb' 0 5))
      else .error (.illegalCommand (cmdWord op imm)) := by
  simp only [decodeCommand, cmdOp_cmdWord, cmdImm_cmdWord]

/-- The immediate of `RDD j`: `j` below three zero bits (R85). -/
def rddImm (j : BitVec 5) : Byte := (0 : BitVec 3) ++ j

@[simp] theorem rddImm_high (j : BitVec 5) : (rddImm j).extractLsb' 5 3 = 0 := BitVec.extractLsb'_append_eq_left

@[simp] theorem rddImm_low (j : BitVec 5) : (rddImm j).extractLsb' 0 5 = j := BitVec.extractLsb'_append_eq_right

theorem toNat_rddImm (j : BitVec 5) : (rddImm j).toNat = j.toNat := by
  rw [rddImm, Machine.toNat_append_eq_mul_add]
  simp

theorem rddImm_inj {j j' : BitVec 5} : rddImm j = rddImm j' ↔ j = j' :=
  ⟨fun h => by simpa using congrArg (BitVec.extractLsb' 0 5) h, congrArg rddImm⟩

/-- The word of `RDD j` by its fixed upper 11 bits, which the mask of R84 keeps, and its operand. -/
theorem cmdWord_rddImm (j : BitVec 5) : cmdWord 0x05 (rddImm j) = (0x28 : BitVec 11) ++ j := by
  refine BitVec.eq_of_toNat_eq ?_
  rw [cmdWord, Machine.toNat_append_eq_mul_add, Machine.toNat_append_eq_mul_add, toNat_rddImm]
  rfl

theorem encode_rdd (j : BitVec 5) : encode (.rdd j) = .cmd16 (cmdWord 0x05 (rddImm j)) := rfl

theorem decode_encode (i : Instr) : decode (encode i) = .ok i := by
  cases i with
  | nop | init | hash | rds | rdl | rde | uPad | uLdw | uIni | uFin => rfl
  | push b => simp [encode, decode, decodeCommand_cmdWord]
  | rdd j => simp [encode_rdd, decode, decodeCommand_cmdWord]
  | uExp i | uRnd i =>
    simp only [encode, decode, seqWord, decodeSeq_append]
    rfl

theorem encode_of_decodeCommand {w : CmdWord} {i : Instr} (h : decodeCommand w = .ok i) :
    encode i = .cmd16 w := by
  rw [← cmdWord_fields w] at h ⊢
  generalize cmdOp w = op, cmdImm w = imm at h ⊢
  rw [decodeCommand_cmdWord] at h
  split_ifs at h with hnop hinit hpush hhash hrds hrdl hrde hrdd <;> cases h
  · rw [hnop.1, hnop.2]; rfl
  · rw [hinit.1, hinit.2]; rfl
  · rw [hpush]; rfl
  · rw [hhash.1, hhash.2]; rfl
  · rw [hrds.1, hrds.2]; rfl
  · rw [hrdl.1, hrdl.2]; rfl
  · rw [hrde.1, hrde.2]; rfl
  · rw [encode, ← hrdd.2, imm_split, hrdd.1]

theorem encode_of_decodeSeq {q : SeqWord} {i : Instr} (h : decodeSeq q = .ok i) : encode i = .seq9 q := by
  rw [← seqWord_fields q] at h ⊢
  generalize seqPh q = p, seqIdx q = n at h ⊢
  rw [seqWord, decodeSeq_append] at h
  split_ifs at h with hpad hldw hexp hini hrnd hfin <;> cases h
  · rw [hpad.1, hpad.2]; rfl
  · rw [hldw.1, hldw.2]; rfl
  · rw [hexp]; rfl
  · rw [hini.1, hini.2]; rfl
  · rw [hrnd]; rfl
  · rw [hfin.1, hfin.2]; rfl

/-- Settles O4: each format by itself, the decoder's branches one by one. -/
theorem decodeInvertsEncode : Obligations.DecodeInvertsEncode := by
  intro i c
  refine ⟨fun h => h ▸ decode_encode i, fun h => ?_⟩
  cases c with
  | cmd16 w => exact encode_of_decodeCommand h
  | seq9 q => exact encode_of_decodeSeq h

theorem decodeCommand_eq_ok_iff {w : CmdWord} {i : Instr} : decodeCommand w = .ok i ↔ encode i = .cmd16 w :=
  (decodeInvertsEncode i (.cmd16 w)).symm

theorem decodeSeq_eq_ok_iff {q : SeqWord} {i : Instr} : decodeSeq q = .ok i ↔ encode i = .seq9 q :=
  (decodeInvertsEncode i (.seq9 q)).symm

theorem not_isCommand_of_decodeSeq {q : SeqWord} {i : Instr} (h : decodeSeq q = .ok i) : i.isCommand = false := by
  rw [decodeSeq_eq_ok_iff] at h
  cases i with
  | uPad | uLdw | uExp _ | uIni | uRnd _ | uFin => rfl
  | nop | init | push _ | hash | rds | rdl | rde | rdd _ => cases h

/-! ### Masks and matches (R84, R88) -/

/-- A value has the upper part `x` exactly when it matches `x` under the mask of its upper bits. -/
theorem and_mask_eq_iff {n m : Nat} (w : BitVec (n + m)) (x : BitVec n) :
    w &&& (BitVec.allOnes n ++ 0#m) = x ++ 0#m ↔ w.extractLsb' m n = x := by
  conv_lhs => rw [← BitVec.extractLsb'_append_extractLsb' (x := w), BitVec.and_append]
  simp only [BitVec.and_allOnes, BitVec.and_zero]
  refine ⟨fun h => ?_, fun h => by rw [h]⟩
  simpa only [BitVec.extractLsb'_append_eq_left] using congrArg (BitVec.extractLsb' m n) h

/-- A pattern with an operand in its lower bits: mask and match fix the upper part, the operand is the slice. -/
theorem append_eq_iff_mask {n m : Nat} (x : BitVec n) (y : BitVec m) (w : BitVec (n + m)) :
    x ++ y = w ↔ w &&& (BitVec.allOnes n ++ 0#m) = x ++ 0#m ∧ y = w.extractLsb' 0 m := by
  rw [and_mask_eq_iff]
  constructor
  · rintro rfl
    exact ⟨BitVec.extractLsb'_append_eq_left, BitVec.extractLsb'_append_eq_right.symm⟩
  · rintro ⟨rfl, rfl⟩
    exact BitVec.extractLsb'_append_extractLsb'

/-- A pattern without operand: the mask is all ones. -/
theorem eq_iff_and_ones (v w : CmdWord) : v = w ↔ w &&& 0xFFFF = v := by
  rw [show (0xFFFF : CmdWord) = BitVec.allOnes 16 from rfl, BitVec.and_allOnes, eq_comm]

/-! ### The eight command patterns (R84) -/

theorem cmdWord_inj {op op' imm imm' : Byte} : cmdWord op imm = cmdWord op' imm' ↔ op = op' ∧ imm = imm' := by
  refine ⟨fun h => ⟨?_, ?_⟩, fun ⟨ho, hi⟩ => by rw [ho, hi]⟩
  · simpa using congrArg cmdOp h
  · simpa using congrArg cmdImm h

/-- The command words of R84: six without operand, 256 of `PUSH` and 32 of `RDD`. -/
def legalWords : List CmdWord :=
  [cmdWord 0x00 0x00, cmdWord 0x01 0x00, cmdWord 0x03 0x00, cmdWord 0x04 0x00, cmdWord 0x04 0x01, cmdWord 0x04 0x02] ++
    ((List.finRange 256).map (fun b => cmdWord 0x02 (.ofFin b)) ++
      (List.finRange 32).map (fun j => cmdWord 0x05 (rddImm (.ofFin j))))

theorem length_legalWords : legalWords.length = 294 := by
  simp [legalWords]

theorem nodup_legalWords : legalWords.Nodup := by
  have hpush : ((List.finRange 256).map fun b => cmdWord 0x02 (.ofFin b)).Nodup :=
    (List.nodup_finRange 256).map fun a b h => by simpa [cmdWord_inj] using h
  have hrdd : ((List.finRange 32).map fun j => cmdWord 0x05 (rddImm (.ofFin j))).Nodup :=
    (List.nodup_finRange 32).map fun a b h => by simpa [cmdWord_inj, rddImm_inj] using h
  refine List.Nodup.append (by decide) (hpush.append hrdd ?_) ?_ <;> simp [List.Disjoint, cmdWord_inj]

theorem mem_legalWords_iff {w : CmdWord} : w ∈ legalWords ↔ ∃ i, decodeCommand w = .ok i := by
  simp only [decodeCommand_eq_ok_iff]
  constructor
  · intro h
    simp only [legalWords, List.mem_append, List.mem_cons, List.not_mem_nil, or_false, List.mem_map] at h
    rcases h with (rfl | rfl | rfl | rfl | rfl | rfl) | ⟨b, _, rfl⟩ | ⟨j, _, rfl⟩
    exacts [⟨.nop, rfl⟩, ⟨.init, rfl⟩, ⟨.hash, rfl⟩, ⟨.rds, rfl⟩, ⟨.rdl, rfl⟩, ⟨.rde, rfl⟩, ⟨.push _, rfl⟩,
      ⟨.rdd _, rfl⟩]
  · rintro ⟨i, h⟩
    cases i with
    | nop | init | hash | rds | rdl | rde => cases h; simp [legalWords]
    | push b => cases h; simp [legalWords, cmdWord_inj]
    | rdd j => rw [encode_rdd] at h; cases h; simp [legalWords, cmdWord_inj, rddImm_inj]
    | uPad | uLdw | uExp _ | uIni | uRnd _ | uFin => cases h

/-- Settles O1: the encodings of the commands, and the words they are. -/
theorem commandPatternsSelect : Obligations.CommandPatternsSelect := by
  refine ⟨fun w => ?_, fun w i => Machine.isCommand_of_decodeCommand, legalWords, nodup_legalWords,
    length_legalWords, fun w => mem_legalWords_iff⟩
  simp only [decodeCommand_eq_ok_iff, encode, Code.cmd16.injEq]
  refine ⟨eq_iff_and_ones _ w, eq_iff_and_ones _ w, fun b => append_eq_iff_mask (0x02 : Byte) b w,
    eq_iff_and_ones _ w, eq_iff_and_ones _ w, eq_iff_and_ones _ w, eq_iff_and_ones _ w, fun j => ?_⟩
  change cmdWord 0x05 (rddImm j) = w ↔ _
  rw [cmdWord_rddImm]
  exact append_eq_iff_mask (0x28 : BitVec 11) j w

/-! ### The micro-operations (R88, R89) -/

/-- Phase 0 and phase 7 select no micro-operation. -/
theorem decodeSeq_of_noPhase {q : SeqWord} (h : seqPh q = 0 ∨ seqPh q = 7) :
    decodeSeq q = .error (.noMicroOp q) := by
  rcases h with h | h <;> simp [decodeSeq, h]

/-- Settles O5: the encodings of the micro-operations, and the phases that select none. -/
theorem microOpPatternsSelect : Obligations.MicroOpPatternsSelect := by
  intro q
  have hnone (h : seqPh q = 0 ∨ seqPh q = 7) (i : Instr) : decodeSeq q ≠ .ok i := by
    simp [decodeSeq_of_noPhase h]
  simp only [decodeSeq_eq_ok_iff, encode, Code.seq9.injEq] at hnone ⊢
  exact ⟨eq_comm, eq_comm, fun i _ => append_eq_iff_mask (3 : BitVec 3) i q, eq_comm,
    fun i => append_eq_iff_mask (5 : BitVec 3) i q, eq_comm,
    fun h => hnone (.inl ((and_mask_eq_iff (n := 3) (m := 6) q 0).1 h)),
    fun h => hnone (.inr ((and_mask_eq_iff (n := 3) (m := 6) q 7).1 h))⟩

/-- Settles O2, by running the decoder. -/
theorem writtenOutWordsDecode : Obligations.WrittenOutWordsDecode := by
  unfold Obligations.WrittenOutWordsDecode
  decide

end Sys2Proof

namespace Sys2Proof.Machine

/-! ### Illegal words (R86) -/

theorem not_illegalWord_of_decode {w : CmdWord} {i : Instr} (h : decodeCommand w = .ok i) : ¬ IllegalWord w := by
  rw [decodeCommand_eq_ok_iff] at h
  cases i with
  | nop | init | push b | hash | rds | rdl | rde => cases h; simp [IllegalWord]
  | rdd j =>
    rw [encode_rdd] at h
    cases h
    have hj : (rddImm j).toNat < 0x20 := toNat_rddImm j ▸ j.isLt
    simpa [IllegalWord] using hj
  | uPad | uLdw | uExp _ | uIni | uRnd _ | uFin => cases h

/-- The branches the decoder did not take, as numbers. -/
theorem illegalWord_of_error {w : CmdWord} {e : DecodeError} (h : decodeCommand w = .error e) : IllegalWord w := by
  have hhigh : (cmdImm w).extractLsb' 5 3 = 0 ↔ (cmdImm w).toNat < 0x20 := by
    have himm := (cmdImm w).isLt
    rw [← BitVec.toNat_inj, BitVec.extractLsb'_toNat, Nat.shiftRight_eq_div_pow]
    change _ = 0 ↔ _
    omega
  simp only [decodeCommand, hhigh] at h
  split_ifs at h
  unfold IllegalWord
  bv_omega

/-- Settles O3: what decodes is no such word, what fails to decode is one. -/
theorem illegalWordsAnsweredIllegal : Obligations.IllegalWordsAnsweredIllegal := by
  have hillegal (w : CmdWord) : (∃ e, decodeCommand w = .error e) ↔ IllegalWord w := by
    refine ⟨fun ⟨e, h⟩ => illegalWord_of_error h, fun h => ?_⟩
    cases hd : decodeCommand w with
    | ok i => exact absurd h (not_illegalWord_of_decode hd)
    | error e => exact ⟨e, rfl⟩
  refine ⟨hillegal, fun s w h => ?_⟩
  obtain ⟨e, he⟩ := (hillegal w).2 h
  exact hostStep_of_illegal s he

/-! ### Sequencer values without a step (R89) -/

theorem execUExp_of_lt {i : BitVec 6} (s : State) (h : i.toNat < 16) : execUExp i s = .fault .sequencerStuck :=
  if_neg (Nat.not_le.2 h)

/-- Outside phase 3 an unreachable sequencer value selects nothing; in phase 3 it selects `U.EXP i` with `i < 16`. -/
theorem coreStep_of_not_seqReachable {s : State} (h : ¬ SeqReachable s.ph s.idx) :
    coreStep s = .fault .sequencerStuck := by
  simp only [SeqReachable, not_or] at h
  obtain ⟨h0, h1, h2, h3, h4, h5, h6⟩ := h
  by_cases hp : s.ph = 3
  · rw [coreStep_exp hp]
    exact execUExp_of_lt s (Nat.not_le.1 fun hi => h3 ⟨hp, hi⟩)
  · simp only [coreStep, State.idle, State.seq, decodeSeq_append, h0, h1, h2, hp, h4, h5, h6, decide_false, if_false,
      Bool.false_eq_true]

/-- Settles O8: `U.EXP` stops below 16, and any other unreachable value decodes to nothing. -/
theorem unreachableSequencerStuck : Obligations.UnreachableSequencerStuck :=
  ⟨fun s ht h => (step_coreTurn ht).trans (coreStep_of_not_seqReachable (s := takeInput s) h),
    fun s _ h => execUExp_of_lt s h⟩

/-! ### Responses (R82, R83) -/

/-- No host command gives another response than these: any may be rejected or answer `OK` without data, the four reads
give data, and `HASH` raises. -/
inductive ResponseOf : Instr → Response → Prop where
  | rejected (i : Instr) (c : RspCode) (hc : c = .busy ∨ c = .badState) : ResponseOf i ⟨c, 0x00⟩
  | executed (i : Instr) : ResponseOf i ⟨.ok, 0x00⟩
  | readStatus (d : Byte) : ResponseOf .rds ⟨.ok, d⟩
  | readLength (d : Byte) : ResponseOf .rdl ⟨.ok, d⟩
  | readError (d : Byte) : ResponseOf .rde ⟨.ok, d⟩
  | readDigest (j : BitVec 5) (d : Byte) : ResponseOf (.rdd j) ⟨.ok, d⟩
  | raised : ResponseOf .hash ⟨.fail, 0x01⟩

/-- The state `t` shows a response of the command `i`. -/
def Answers (i : Instr) (t : State) : Prop := ∃ r, t.rsp = some r ∧ ResponseOf i r

section Responses

variable {i : Instr} {s t k : State} {w : CmdWord} {r : Response}

/-! A gate rejects or shows the response of what it lets through. -/

theorem Answers.respond {c : RspCode} {d : Byte} (h : ResponseOf i ⟨c, d⟩) : Answers i (respond s c d) := ⟨_, rfl, h⟩

theorem Answers.unlessBusy (h : Answers i k) : Answers i (unlessBusy s k) := by
  rcases unlessBusy_cases s k with ⟨_, e⟩ | ⟨_, e⟩ <;> rw [e]
  · exact .respond (.rejected _ _ (.inl rfl))
  · exact h

theorem Answers.unlessEnded (h : Answers i k) : Answers i (unlessEnded s k) := by
  rcases unlessEnded_cases s k with ⟨_, e⟩ | ⟨_, e⟩ <;> rw [e]
  · exact .respond (.rejected _ _ (.inr rfl))
  · exact h

theorem Answers.unlessNoDigest (h : Answers i k) : Answers i (unlessNoDigest s k) := by
  rcases unlessNoDigest_cases s k with ⟨_, e⟩ | ⟨_, e⟩ <;> rw [e]
  · exact .respond (.rejected _ _ (.inr rfl))
  · exact h

theorem answers_exec (s : State) (hi : i.isCommand = true) : ∃ t, exec i s = .next t ∧ Answers i t := by
  cases i with
  | nop => exact ⟨_, rfl, .respond (.executed _)⟩
  | init => exact ⟨_, rfl, (Answers.respond (.executed _)).unlessBusy⟩
  | push b =>
    refine ⟨_, rfl, Answers.unlessBusy (Answers.unlessEnded ?_)⟩
    split <;> exact .respond (.executed _)
  | hash =>
    refine ⟨_, rfl, Answers.unlessBusy (Answers.unlessEnded ?_)⟩
    split
    · exact .respond .raised
    · exact .respond (.executed _)
  | rds => exact ⟨_, rfl, .respond (.readStatus _)⟩
  | rdl => exact ⟨_, rfl, .respond (.readLength _)⟩
  | rde => exact ⟨_, rfl, .respond (.readError _)⟩
  | rdd j => exact ⟨_, rfl, ((Answers.respond (.readDigest j _)).unlessNoDigest).unlessBusy⟩
  | uPad | uLdw | uExp _ | uIni | uRnd _ | uFin => cases hi

/-- Data other than `0x00` comes with the `OK` of a read or the `FAIL` of `HASH`, by the word presented. -/
theorem ResponseOf.data_ne_zero (h : ResponseOf i r) (hw : decodeCommand w = .ok i) (hd : r.data ≠ 0x00) :
    (r.code = .ok ∧ (w = 0x0400 ∨ w = 0x0401 ∨ w = 0x0402 ∨ cmdOp w = 0x05)) ∨
      (r.code = .fail ∧ w = 0x0300 ∧ r.data = 0x01) := by
  rw [decodeCommand_eq_ok_iff] at hw
  cases h with
  | rejected | executed => exact absurd rfl hd
  | readStatus d => cases hw; exact .inl ⟨rfl, .inl rfl⟩
  | readLength d => cases hw; exact .inl ⟨rfl, .inr (.inl rfl)⟩
  | readError d => cases hw; exact .inl ⟨rfl, .inr (.inr (.inl rfl))⟩
  | readDigest j d => cases hw; exact .inl ⟨rfl, .inr (.inr (.inr (cmdOp_cmdWord _ _)))⟩
  | raised => cases hw; exact .inr ⟨rfl, rfl, rfl⟩

theorem ResponseOf.data_of_fail (h : ResponseOf i r) (hf : r.code = .fail) : r.data = 0x01 := by
  cases h with
  | rejected _ c hc => rcases hc with rfl | rfl <;> cases hf
  | executed | readStatus | readLength | readError | readDigest => cases hf
  | raised => rfl

theorem RspCode.toNat_bits_le (c : RspCode) : c.bits.toNat ≤ 4 := by
  cases c <;> decide

/-- No micro-operation writes the response pins, and a core turn runs nothing else (R43). -/
theorem rsp_of_coreStep (e : coreStep s = .next t) : t.rsp = s.rsp := by
  unfold coreStep at e
  split at e
  · cases e; rfl
  cases hd : decodeSeq s.seq with
  | error err => rw [hd] at e; cases e
  | ok i =>
    rw [hd] at e
    obtain ⟨-, -, -, -, -, -, hrsp, -⟩ := microOpFrame i s t (not_isCommand_of_decodeSeq hd) e
    exact hrsp

end Responses

/-- Settles O22: the responses of the command presented, `ILLEGAL` with `0x00` for a word that is none, and no write of the
response pins in a core turn or a reset. -/
theorem responseCodesAndData : Obligations.ResponseCodesAndData := by
  refine ⟨⟨rfl, rfl, rfl, rfl, rfl⟩, fun s w => ?_, fun s t ht e => ?_⟩
  · cases hd : decodeCommand w with
    | ok i =>
      obtain ⟨t, ht, r, hr, h⟩ := answers_exec s (isCommand_of_decodeCommand hd)
      exact ⟨t, r, (hostStep_of_decode s hd).trans ht, hr, r.code.toNat_bits_le, h.data_ne_zero hd, h.data_of_fail⟩
    | error err => exact ⟨_, _, hostStep_of_illegal s hd, rfl, by decide, by simp, by simp⟩
  · rcases ht with ht | ht
    · exact rsp_of_coreStep (s := takeInput s) ((step_coreTurn ht).symm.trans e)
    · obtain rfl := Host.Outcome.next.inj ((step_reset ht).symm.trans e)
      rfl

end Sys2Proof.Machine

/-! Family 40_host_commands: what each host command answers and writes (R101 to R108), the acceptance matrix (R110), and
the whole transaction `INIT; PUSH*; HASH; WAIT` (R111). -/

namespace Sys2Proof.Machine

/-! ### The commands by their gates (R100 to R104, R108) -/

section Commands

variable {s t : State} {i : Instr} {w : CmdWord}

theorem execInit_of_idle (hp : s.ph = 0) : execInit s = .next (respond (openInvocation s) .ok 0x00) := by
  rw [execInit, unlessBusy_of_idle hp]

theorem execPush_of_ended (b : Byte) (hp : s.ph = 0) (he : s.done = true ∨ s.err = true) :
    execPush b s = .next (respond s .badState 0x00) := by
  rw [execPush, unlessBusy_of_idle hp, unlessEnded_of_ended he]

theorem execHash_of_ended (hp : s.ph = 0) (he : s.done = true ∨ s.err = true) :
    execHash s = .next (respond s .badState 0x00) := by
  rw [execHash, unlessBusy_of_idle hp, unlessEnded_of_ended he]

/-- `HASH` in `COLLECT` with at most 55 bytes pushed starts the sequencer (R104). -/
theorem execHash_of_fits (hp : s.ph = 0) (hd : s.done = false) (he : s.err = false) (ho : s.ovf = false) :
    execHash s = .next (respond (setSeq s 1 0) .ok 0x00) := by
  rw [execHash, unlessBusy_of_idle hp, unlessEnded_of_open hd he, ho]
  rfl

/-- `HASH` in `COLLECT` with more than 55 bytes pushed raises `InputTooLong` (R104, R187). -/
theorem execHash_of_ovf (hp : s.ph = 0) (hd : s.done = false) (he : s.err = false) (ho : s.ovf = true) :
    execHash s = .next (raiseInputTooLong s) := by
  rw [execHash, unlessBusy_of_idle hp, unlessEnded_of_open hd he, ho]
  rfl

theorem execRdd_of_done (j : BitVec 5) (hp : s.ph = 0) (hd : s.done = true) :
    execRdd j s = .next (respond s .ok (doutByte s.dg j)) := by
  rw [execRdd, unlessBusy_of_idle hp, unlessNoDigest_of_done hd]

theorem execRdd_of_not_done (j : BitVec 5) (hp : s.ph = 0) (hd : s.done = false) :
    execRdd j s = .next (respond s .badState 0x00) := by
  rw [execRdd, unlessBusy_of_idle hp, unlessNoDigest_of_not_done hd]

/-- While the core computes, a gated command is rejected (R100 line 3). -/
theorem exec_of_busy (hp : s.ph ≠ 0) (hi : i = .init ∨ i = .hash ∨ (∃ b, i = .push b) ∨ ∃ j, i = .rdd j) :
    exec i s = .next (respond s .busy 0x00) := by
  rcases hi with rfl | rfl | ⟨b, rfl⟩ | ⟨j, rfl⟩ <;> exact congrArg Host.Outcome.next (unlessBusy_of_busy hp)

end Commands

/-! ### Single commands -/

/-- Settles O12: `NOP` only answers. -/
theorem nopAnswersOk : Obligations.NopAnswersOk := fun _ => rfl

/-- Settles O13: the busy gate before the opening of an invocation. -/
theorem initOpensInvocation : Obligations.InitOpensInvocation := fun _ => rfl

/-- Settles O15: the two gates, then the choice by `OVF`. -/
theorem hashStartsOrRaises : Obligations.HashStartsOrRaises := fun _ => rfl

/-- Settles O19: the two gates, then the byte of the view, which is the slice by definition. -/
theorem rddReadsDigestByte : Obligations.RddReadsDigestByte := fun _ _ => rfl

theorem writeIB_of_lt {len : BitVec 6} (ib : Vector Byte 55) (b : Byte) (h : len.toNat < 55) :
    writeIB ib len b = ib.set len.toNat b h := by
  simp only [writeIB, Vector.setIfInBounds, Vector.set, Array.setIfInBounds, ib.size_toArray, h, dite_true]

/-- Settles O14: behind the two gates of the rule, a byte is stored where `IB` has an element `LEN`. -/
theorem pushAppendsByte : Obligations.PushAppendsByte := by
  intro s b
  refine congrArg (fun k => Host.Outcome.next (unlessBusy s (unlessEnded s k))) ?_
  by_cases hl : s.len.toNat < 55
  · rw [if_pos hl, dif_pos hl, writeIB_of_lt s.ib b hl]
    rfl
  · rw [if_neg hl, dif_neg hl]
    rfl

/-! ### The four reads (R105, R106, R107) -/

/-- The bits of `STATUS` (R38). -/
theorem status_bits (s : State) :
    s.status.getLsbD 0 = s.busy ∧ s.status.getLsbD 1 = s.done ∧ s.status.getLsbD 2 = s.err ∧
      s.status.getLsbD 3 = s.ovf ∧ s.status.extractLsb' 4 4 = 0 := by
  unfold State.status
  generalize s.busy = b, s.done = d, s.err = e, s.ovf = o
  revert b d e o
  decide

theorem busy_iff {s : State} : s.busy = true ↔ s.ph ≠ 0 := decide_eq_true_iff

section Status

variable {s : State}

theorem CoreInv.err_of_done (h : CoreInv s) (hd : s.done = true) : s.err = false :=
  Bool.eq_false_iff.2 fun he => h.not_both ⟨hd, he⟩

theorem CoreInv.done_of_err (h : CoreInv s) (he : s.err = true) : s.done = false :=
  Bool.eq_false_iff.2 fun hd => h.not_both ⟨hd, he⟩

theorem CoreInv.status_of_busy (h : CoreInv s) (hp : s.ph ≠ 0) : s.status = 0x01 := by
  obtain ⟨hd, he, ho⟩ := h.computing hp
  rw [State.status, busy_iff.2 hp, hd, he, ho]
  rfl

theorem CoreInv.status_of_done (h : CoreInv s) (hp : s.ph = 0) (hd : s.done = true) : s.status = 0x02 := by
  rw [State.status, State.busy, hp, hd, h.err_of_done hd, h.done_ovf hd]
  rfl

theorem CoreInv.status_of_err (h : CoreInv s) (hp : s.ph = 0) (he : s.err = true) : s.status = 0x0C := by
  rw [State.status, State.busy, hp, h.done_of_err he, he, h.err_ovf he]
  rfl

theorem status_of_collect (hp : s.ph = 0) (hd : s.done = false) (he : s.err = false) :
    s.status = if s.ovf then 0x08 else 0x00 := by
  rw [State.status, State.busy, hp, hd, he]
  cases s.ovf <;> rfl

end Status

/-- Settles O16: the bits are the flags by definition, and each top-level state has its byte. -/
theorem rdsReadsStatus : Obligations.RdsReadsStatus := by
  intro s
  obtain ⟨hbusy, hdone, herr, hovf, hhigh⟩ := status_bits s
  refine ⟨s.status, rfl, by rw [hbusy, busy_iff], hdone, herr, hovf, hhigh, fun h => ⟨?_, h.status_of_busy⟩⟩
  cases ht : s.top with
  | collect =>
    obtain ⟨hp, hd, he⟩ := top_collect_iff.1 ht
    rw [status_of_collect hp hd he]
    cases s.ovf <;> simp
  | busy => simp [h.status_of_busy (top_busy_iff.1 ht)]
  | done =>
    obtain ⟨hp, hd⟩ := top_done_iff.1 ht
    simp [h.status_of_done hp hd]
  | error =>
    obtain ⟨hp, -, he⟩ := top_error_iff.1 ht
    simp [h.status_of_err hp he]

theorem toNat_lenByte (s : State) : s.lenByte.toNat = s.len.toNat := by
  rw [State.lenByte, BitVec.toNat_setWidth]
  omega

theorem CoreInv.lenByte_of_ovf {s : State} (h : CoreInv s) (ho : s.ovf = true) : s.lenByte = 0x37 :=
  BitVec.eq_of_toNat_eq ((toNat_lenByte s).trans (h.ovf_len ho))

/-- Settles O17: the byte has the value of `LEN`, which the invariant bounds. -/
theorem rdlReadsLength : Obligations.RdlReadsLength := fun s =>
  ⟨s.lenByte, rfl, toNat_lenByte s, fun h => ⟨toNat_lenByte s ▸ h.len_le, h.lenByte_of_ovf⟩⟩

/-- `InputTooLong` stands exactly in `ERROR`: not while the core computes, and not beside a digest. -/
theorem CoreInv.err_iff_top {s : State} (h : CoreInv s) : s.err = true ↔ s.top = .error := by
  refine ⟨fun he => top_error_iff.2 ⟨?_, h.done_of_err he, he⟩, fun ht => (top_error_iff.1 ht).2.2⟩
  by_contra hp
  simp [(h.computing hp).2.1] at he

/-- Settles O18: `ECODE` is `0x01` exactly when `ERR` is 1. -/
theorem rdeReadsErrorCode : Obligations.RdeReadsErrorCode := fun _ =>
  ⟨rfl, fun h => ⟨h.ecode_range, h.err_ecode.symm.trans h.err_iff_top, fun hp =>
    h.ecode_of_not_err (h.computing hp).2.1⟩⟩

/-! ### The acceptance matrix (R110) -/

section WaysOut

variable {s t : State} {i : Instr} {w : CmdWord}

/-- While the core computes, a host step only answers (R193). -/
theorem hostStep_of_busy (w : CmdWord) (hp : s.ph ≠ 0) : ∃ c d, hostStep w s = .next (respond s c d) := by
  obtain ⟨t, ht, effect⟩ := hostStep_next w s
  cases effect with
  | answer c d _ => exact ⟨c, d, ht⟩
  | opened h | stored _ h | overflowed h | raised h | started h => exact absurd h hp

/-- In `DONE` and in `ERROR` every command but `INIT` only answers. -/
theorem exec_of_ended (hp : s.ph = 0) (he : s.done = true ∨ s.err = true) (hi : i.isCommand = true)
    (hne : i ≠ .init) : ∃ c d, exec i s = .next (respond s c d) := by
  cases i with
  | nop | rds | rdl | rde => exact ⟨_, _, rfl⟩
  | init => exact absurd rfl hne
  | push b => exact ⟨_, _, execPush_of_ended b hp he⟩
  | hash => exact ⟨_, _, execHash_of_ended hp he⟩
  | rdd j =>
    cases hd : s.done
    · exact ⟨_, _, execRdd_of_not_done j hp hd⟩
    · exact ⟨_, _, execRdd_of_done j hp hd⟩
  | uPad | uLdw | uExp _ | uIni | uRnd _ | uFin => cases hi

/-- In `DONE` and in `ERROR` every word but that of `INIT` is only answered. -/
theorem hostStep_of_ended (hp : s.ph = 0) (he : s.done = true ∨ s.err = true) (hw : w ≠ 0x0100) :
    ∃ c d, hostStep w s = .next (respond s c d) := by
  cases hdec : decodeCommand w with
  | error err => exact ⟨_, _, hostStep_of_illegal s hdec⟩
  | ok i =>
    rw [hostStep_of_decode s hdec]
    refine exec_of_ended hp he (isCommand_of_decodeCommand hdec) fun hi => hw ?_
    rw [hi, decodeCommand_eq_ok_iff] at hdec
    exact (Code.cmd16.inj hdec).symm

/-- Every transition but a reset that ends the computation is the core turn of `U.FIN`. -/
theorem uFin_of_turn_to_idle (h : CoreInv s) (hr : s.pins.rst = false) (hp : s.ph ≠ 0) (e : step s = .next t)
    (hidle : t.ph = 0) : State.coreTurn s ∧ s.ph = 6 ∧ t.done = true := by
  rcases turn_cases s with ht | ⟨w, ht⟩ | ht
  · simp [ht] at hr
  · obtain ⟨c, d, hw⟩ := hostStep_of_busy (s := takeInput s) w hp
    obtain rfl := Host.Outcome.next.inj (hw.symm.trans ((step_hostTurn ht).symm.trans e))
    exact absurd hidle hp
  · have hcore := (step_coreTurn ht).symm.trans e
    rcases coreStep_cases (s := takeInput s) h.seq_reachable h.len_le with ⟨p, _, c⟩ | ⟨_, _, c⟩ | ⟨_, _, c⟩ |
      ⟨_, _, c⟩ | ⟨_, _, c⟩ | ⟨_, c⟩ | ⟨p, _, c⟩ <;> obtain rfl := Host.Outcome.next.inj (c.symm.trans hcore)
    · exact absurd p hp
    · simp at hidle
    · simp at hidle
    · rw [setSeq_ph] at hidle
      split at hidle <;> simp at hidle
    · simp at hidle
    · rw [setSeq_ph] at hidle
      split at hidle <;> simp at hidle
    · exact ⟨ht, p, rfl⟩

/-- Every transition but a reset that leaves `DONE` or `ERROR` is an `INIT`. -/
theorem hostTurn_init_of_leaving_ended (h : CoreInv s) (hr : s.pins.rst = false) (hp : s.ph = 0)
    (he : s.done = true ∨ s.err = true) (e : step s = .next t) (hne : t.top ≠ s.top) : State.hostTurn s 0x0100 := by
  rcases turn_cases s with ht | ⟨w, ht⟩ | ht
  · simp [ht] at hr
  · by_contra hinit
    have hw : w ≠ 0x0100 := fun hw => hinit (hw ▸ ht)
    obtain ⟨c, d, hstep⟩ := hostStep_of_ended (s := takeInput s) hp he hw
    obtain rfl := Host.Outcome.next.inj (hstep.symm.trans ((step_hostTurn ht).symm.trans e))
    exact hne rfl
  · have hidle := coreStep_idle (s := takeInput s) hp (h.idx_of_idle hp)
    obtain rfl := Host.Outcome.next.inj (hidle.symm.trans ((step_coreTurn ht).symm.trans e))
    exact absurd rfl hne

end WaysOut

/-- `INIT` outside a computation leads to `COLLECT` with an empty input. -/
theorem exec_init_to_collect {s : State} (hp : s.ph = 0) :
    ∃ t, exec .init s = .next t ∧ t.rsp = some ⟨.ok, 0x00⟩ ∧ t.top = .collect ∧ t.len = 0 ∧ t.ovf = false :=
  ⟨_, execInit_of_idle hp, rfl, top_collect_iff.2 ⟨hp, rfl, rfl⟩, rfl, rfl⟩

/-- `PUSH` in `COLLECT` stays there and stores a byte or sets `OVF`. -/
theorem exec_push_in_collect {s : State} (b : Byte) (hp : s.ph = 0) (hd : s.done = false) (he : s.err = false) :
    ∃ t, exec (.push b) s = .next t ∧ t.rsp = some ⟨.ok, 0x00⟩ ∧ t.top = .collect ∧
      (t.len.toNat = s.len.toNat + 1 ∨ t.ovf = true) := by
  by_cases hl : s.len.toNat < 55
  · exact ⟨_, execPush_of_room b hp hd he hl, rfl, top_collect_iff.2 ⟨hp, hd, he⟩,
      .inl (toNat_succ_of_lt (by omega))⟩
  · exact ⟨_, execPush_of_full b hp hd he hl, rfl, top_collect_iff.2 ⟨hp, hd, he⟩, .inr rfl⟩

/-- `HASH` in `COLLECT` leads to `BUSY`, or with `OVF` set to `ERROR`. -/
theorem exec_hash_in_collect {s : State} (hp : s.ph = 0) (hd : s.done = false) (he : s.err = false) :
    ∃ t, exec .hash s = .next t ∧
      (s.ovf = false → t.rsp = some ⟨.ok, 0x00⟩ ∧ t.top = .busy) ∧
      (s.ovf = true → t.rsp = some ⟨.fail, 0x01⟩ ∧ t.top = .error) := by
  cases ho : s.ovf
  · exact ⟨_, execHash_of_fits hp hd he ho, by simp [top_busy_iff]⟩
  · exact ⟨_, execHash_of_ovf hp hd he ho, by simp [top_error_iff, hp, hd]⟩

/-- Settles O24, by top-level state, then the ways out. -/
theorem acceptanceMatrix : Obligations.AcceptanceMatrix := by
  intro s h
  have answer {c : RspCode} {d d' : Byte} (hd : d = d') :
      (.next (respond s c d) : Result) = .next { s with rsp := some ⟨c, d'⟩ } := by rw [hd]; rfl
  refine ⟨fun ht => ?collect, fun ht => ?busy, fun ht => ?done, fun ht => ?error, rfl,
    fun w hw => illegalWordsAnsweredIllegal.2 s w hw, fun t e hr hne => ⟨fun ht => ?fromBusy, fun ht => ?fromEnded⟩⟩
  case collect =>
    obtain ⟨hp, hd, he⟩ := top_collect_iff.1 ht
    exact ⟨answer (status_of_collect hp hd he), rfl, answer (h.ecode_of_not_err he), exec_init_to_collect hp,
      fun b => exec_push_in_collect b hp hd he, exec_hash_in_collect hp hd he,
      fun j => execRdd_of_not_done j hp hd⟩
  case busy =>
    have hp := top_busy_iff.1 ht
    exact ⟨answer (h.status_of_busy hp), rfl, answer (h.ecode_of_not_err (h.computing hp).2.1),
      fun i => exec_of_busy hp⟩
  case done =>
    obtain ⟨hp, hd⟩ := top_done_iff.1 ht
    obtain ⟨t, e, hrsp, htop, -⟩ := exec_init_to_collect hp
    exact ⟨answer (h.status_of_done hp hd), rfl, answer (h.ecode_of_not_err (h.err_of_done hd)), ⟨t, e, hrsp, htop⟩,
      fun b => execPush_of_ended b hp (.inl hd), execHash_of_ended hp (.inl hd), fun j => execRdd_of_done j hp hd⟩
  case error =>
    obtain ⟨hp, hd, he⟩ := top_error_iff.1 ht
    obtain ⟨t, e, hrsp, htop, -⟩ := exec_init_to_collect hp
    exact ⟨answer (h.status_of_err hp he), answer (h.lenByte_of_ovf (h.err_ovf he)), answer (h.err_ecode.1 he),
      ⟨t, e, hrsp, htop⟩, fun b => execPush_of_ended b hp (.inr he), execHash_of_ended hp (.inr he),
      fun j => execRdd_of_not_done j hp hd⟩
  case fromBusy =>
    have hidle : t.ph = 0 := by
      by_contra hp
      exact hne ((top_busy_iff.2 hp).trans ht.symm)
    obtain ⟨hturn, hfin, hdone⟩ := uFin_of_turn_to_idle h hr (top_busy_iff.1 ht) e hidle
    exact ⟨hturn, hfin, top_done_iff.2 ⟨hidle, hdone⟩⟩
  case fromEnded =>
    rcases ht with ht | ht
    · obtain ⟨hp, hd⟩ := top_done_iff.1 ht
      exact hostTurn_init_of_leaving_ended h hr hp (.inl hd) e hne
    · obtain ⟨hp, -, he⟩ := top_error_iff.1 ht
      exact hostTurn_init_of_leaving_ended h hr hp (.inr he) e hne

/-! ### The message schedule as a recurrence (R134) -/

section Schedule

variable (B : Vector Byte 64)

/-- The first words of the schedule do not depend on how many more are computed. -/
theorem schedPrefix_getD_of_le {j k n : Nat} (hjk : j ≤ k) (hn : n < 16 + j) :
    (schedPrefix B k).getD n 0 = (schedPrefix B j).getD n 0 := by
  induction k, hjk using Nat.le_induction with
  | base => rfl
  | succ k hjk ih =>
    rw [← ih, schedPrefix, List.getD_append _ _ _ _ (by rw [schedPrefix_length]; omega)]

theorem getElem_sched {k n : Nat} (hk : k ≤ 48) (hn : n < 16 + k) (hn64 : n < 64) :
    (sched B)[n] = (schedPrefix B k).getD n 0 := by
  rw [← schedPrefix_getD_of_le B hk hn, List.getD_eq_getElem _ _ (by rw [schedPrefix_length]; omega)]
  simp only [sched, Vector.getElem_mk, List.getElem_toArray]

/-- The first sixteen words are the block (R134). -/
theorem getElem_sched_of_lt {n : Nat} (hn : n < 16) : (sched B)[n] = blockWord B n hn := by
  rw [getElem_sched B (Nat.zero_le _) hn (by omega), schedPrefix, List.getD_eq_getElem _ _ (by simpa using hn),
    List.getElem_ofFn]

/-- From index 16 on each word is the sum of four earlier ones (R134), as `U.EXP` computes it. -/
theorem getElem_sched_of_le {n : Nat} (h16 : 16 ≤ n) (hn : n < 64) : (sched B)[n] = expandWord (sched B) n hn := by
  obtain ⟨k, rfl⟩ := Nat.exists_eq_add_of_le h16
  have hlen := schedPrefix_length B k
  have hword (m : Nat) (hm : m < 16 + k) := getElem_sched B (show k ≤ 48 by omega) hm (by omega)
  have hlast : (sched B)[16 + k] = expandSum ((schedPrefix B k).getD k 0) ((schedPrefix B k).getD (k + 1) 0)
      ((schedPrefix B k).getD (k + 9) 0) ((schedPrefix B k).getD (k + 14) 0) := by
    rw [getElem_sched B (show k + 1 ≤ 48 by omega) (by omega) hn, schedPrefix,
      List.getD_append_right _ _ _ _ hlen.le, hlen, Nat.sub_self]
    rfl
  have h15 : 16 + k - 15 = k + 1 := by omega
  have h7 : 16 + k - 7 = k + 9 := by omega
  have h2 : 16 + k - 2 = k + 14 := by omega
  simp only [hlast, expandWord, Nat.add_sub_cancel_left, h15, h7, h2]
  rw [hword k (by omega), hword (k + 1) (by omega), hword (k + 9) (by omega), hword (k + 14) (by omega)]

/-- `U.EXP i` on the words of the schedule below `i` gives the words of the schedule up to `i` (R133, R134). -/
theorem getElem_set_expandWord {w : Vector Word 64} {i : Nat} (h16 : 16 ≤ i) (hi : i < 64)
    (hw : ∀ (k : Nat) (hk : k < 64), k < i → w[k] = (sched B)[k]) {k : Nat} (hk : k < 64) (hki : k ≤ i) :
    (w.set i (expandWord w i hi))[k] = (sched B)[k] := by
  rw [expandWord_congr hi h16 hw, ← getElem_sched_of_le B h16 hi]
  rcases Nat.lt_or_eq_of_le hki with hlt | rfl
  · rw [Vector.getElem_set_ne _ _ (by omega), hw k hk hlt]
  · rw [Vector.getElem_set_self]

end Schedule

/-! ### The block `U.PAD` writes is `pad` of the input (R120, R121) -/

/-- The block `U.PAD` writes in the state `s` (R121). -/
def State.paddedBlock (s : State) : Vector Byte 64 := Vector.ofFn fun i => padByte s.ib s.len.toNat i.val

/-- The four index ranges of `pad` (R120). -/
theorem getElem_pad {m : List Byte} (hm : m.length ≤ maxInput) {i : Nat} (hi : i < 64) :
    (pad m hm)[i] =
      if h : i < m.length then m[i]
      else if i = m.length then 0x80
      else if i < 56 then 0x00
      else be64Byte (i - 56) (BitVec.ofNat 64 (8 * m.length)) := by
  have hm55 : m.length ≤ 55 := hm
  have hzeros : m.length + 1 + (56 - (m.length + 1)) = 56 := by omega
  simp only [pad, padBytes, lengthField, Vector.getElem_mk, List.getElem_toArray, List.getElem_append,
    List.length_append, List.length_singleton, List.length_replicate, hzeros, List.getElem_replicate,
    List.getElem_singleton, List.getElem_map, List.getElem_range]
  by_cases hlt : i < m.length
  · rw [dif_pos (by omega), dif_pos (by omega), dif_pos hlt, dif_pos hlt]
  by_cases hmark : i = m.length
  · rw [dif_pos (by omega), dif_pos (by omega), dif_neg hlt, dif_neg hlt, if_pos hmark]
  by_cases hzero : i < 56
  · rw [dif_pos hzero, dif_neg (by omega), dif_neg hlt, if_neg hmark, if_pos hzero]
  · rw [dif_neg hzero, dif_neg hlt, if_neg hmark, if_neg hzero]

theorem paddedBlock_eq_pad {s : State} {m : List Byte} (hinput : s.input = m) (hlen : s.len.toNat = m.length)
    (hm : m.length ≤ maxInput) : s.paddedBlock = pad m hm := by
  subst hinput
  refine Vector.ext fun i hi => ?_
  rw [State.paddedBlock, Vector.getElem_ofFn, padByte, getElem_pad hm hi, hlen]
  by_cases hlt : i < s.input.length
  · rw [dif_pos ⟨hlt, hlt.trans_le hm⟩, dif_pos hlt]
    simp [State.input]
  · rw [dif_neg fun h => hlt h.1, dif_neg hlt]

/-- `U.LDW` as a statement about the sixteen words it loads (R132). -/
theorem execULdw_loads (s : State) : ∃ w, execULdw s = .next (setSeq { s with w := w } 3 16) ∧
    ∀ (k : Nat) (hk : k < 16), w[k] = blockWord s.blk k hk := by
  refine ⟨_, rfl, fun k hk => ?_⟩
  rw [Vector.getElem_ofFn, dif_pos hk]

theorem execUPad_eq {s : State} (hl : s.len.toNat ≤ 55) :
    execUPad s = .next (setSeq { s with blk := s.paddedBlock } 2 0) := execUPad_of_le hl

/-! ### A computation in progress (R164, R193, R216) -/

/-- What the datapath holds at each row of the table of R33, when `U.PAD` was started on an input whose padded block is
`B`, and at the end. -/
inductive Stage (B : Vector Byte 64) (t : State) : Prop where
  | pad (ph : t.ph = 1) (idx : t.idx = 0)
  | ldw (ph : t.ph = 2) (idx : t.idx = 0) (blk : t.blk = B)
  | exp (ph : t.ph = 3) (idx : 16 ≤ t.idx.toNat) (blk : t.blk = B)
      (w : ∀ (k : Nat) (hk : k < 64), k < t.idx.toNat → t.w[k] = (sched B)[k])
  | ini (ph : t.ph = 4) (idx : t.idx = 0) (blk : t.blk = B) (w : t.w = sched B)
  | rnd (ph : t.ph = 5) (blk : t.blk = B) (w : t.w = sched B)
      (regs : t.regs = workingAfter (sched B) t.idx.toNat)
  | fin (ph : t.ph = 6) (idx : t.idx = 0) (blk : t.blk = B) (w : t.w = sched B)
      (regs : t.regs = workingAfter (sched B) 64)
  | done (ph : t.ph = 0) (idx : t.idx = 0) (blk : t.blk = B) (w : t.w = sched B)
      (regs : t.regs = workingAfter (sched B) 64) (done : t.done = true) (dg : t.dg = accumulate t.regs)

/-- `t` is what a core has become that accepted `HASH` in the state `s`: the input is as it was, and the datapath holds
what the core steps taken so far have computed from it. -/
structure Computing (s t : State) : Prop where
  ib : t.ib = s.ib
  len : t.len = s.len
  len_le : t.len.toNat ≤ 55
  stage : Stage s.paddedBlock t

section Computation

variable {s t : State}

theorem workingAfter_succ (w : Vector Word 64) {n : Nat} (hn : n < 64) :
    workingAfter w (n + 1) = oneRound (workingAfter w n) K[n] w[n] := by
  simp [workingAfter, Vector.getD, hn]

/-- The result `r` of a core turn in the state `t` has completed one of the core steps owed. -/
def CompletesStep (s t : State) (r : Result) : Prop := ∃ u, r = .next u ∧ Computing s u ∧ u.owed + 1 = t.owed

/-- The datapath writes of a micro-operation other than `U.FIN` leave the input. -/
theorem Computing.write (h : Computing s t) {blk : Vector Byte 64} {w : Vector Word 64} {regs : Working} {p : BitVec 3}
    {i : BitVec 6} (hst : Stage s.paddedBlock (setSeq { t with blk := blk, w := w, regs := regs } p i)) :
    Computing s (setSeq { t with blk := blk, w := w, regs := regs } p i) :=
  { h with stage := hst }

/-- So does the write of `U.FIN`. -/
theorem Computing.finish (h : Computing s t) {dg : Vector Word 8}
    (hst : Stage s.paddedBlock (setSeq { t with dg := dg, done := true } 0 0)) :
    Computing s (setSeq { t with dg := dg, done := true } 0 0) :=
  { h with stage := hst }

theorem Computing.execUPad (h : Computing s t) (p : t.ph = 1) : CompletesStep s t (execUPad t) := by
  have hblk : t.paddedBlock = s.paddedBlock := by simp only [State.paddedBlock, h.ib, h.len]
  exact ⟨_, execUPad_eq h.len_le, h.write (.ldw rfl rfl hblk), by simp [State.owed, p]⟩

theorem Computing.execULdw (h : Computing s t) (p : t.ph = 2) (blk : t.blk = s.paddedBlock) :
    CompletesStep s t (execULdw t) := by
  obtain ⟨w, e, hw⟩ := execULdw_loads t
  refine ⟨_, e, h.write (.exp rfl le_rfl blk fun k hk hlt => ?_), by simp [State.owed, p]⟩
  have hk16 : k < 16 := hlt
  exact (hw k hk16).trans (by rw [blk, getElem_sched_of_lt])

/-- The index goes on to the next word, after the last one to `U.INI`. -/
theorem Computing.execUExp (h : Computing s t) (p : t.ph = 3) (i : 16 ≤ t.idx.toNat) (blk : t.blk = s.paddedBlock)
    (w : ∀ (k : Nat) (hk : k < 64), k < t.idx.toNat → t.w[k] = (sched s.paddedBlock)[k]) :
    CompletesStep s t (execUExp t.idx t) := by
  have hw (k : Nat) (hk : k < 64) (hle : k ≤ t.idx.toNat) := getElem_set_expandWord _ i t.idx.isLt w hk hle
  have e := execUExp_of_le (s := t) i
  generalize t.w.set t.idx.toNat _ = x at e hw
  by_cases hlast : t.idx.toNat < 63
  · have hsucc := toNat_succ_of_lt hlast
    simp only [hlast, if_true] at e
    refine ⟨_, e, h.write (.exp rfl ?_ blk fun k hk hlt => hw k hk ?_), ?_⟩
    · rw [setSeq_idx]
      omega
    · rw [setSeq_idx] at hlt
      omega
    · simp [State.owed, p]
      omega
  · simp only [hlast, if_false] at e
    refine ⟨_, e, h.write (.ini rfl rfl blk ?_), ?_⟩
    · exact Vector.ext fun k hk => hw k hk (by omega)
    · simp [State.owed, p]
      omega

theorem Computing.execUIni (h : Computing s t) (p : t.ph = 4) (blk : t.blk = s.paddedBlock)
    (w : t.w = sched s.paddedBlock) : CompletesStep s t (execUIni t) :=
  ⟨_, rfl, h.write (.rnd rfl blk w rfl), by simp [State.owed, p]⟩

/-- The index goes on to the next round, after the last one to `U.FIN`. -/
theorem Computing.execURnd (h : Computing s t) (p : t.ph = 5) (blk : t.blk = s.paddedBlock)
    (w : t.w = sched s.paddedBlock) (regs : t.regs = workingAfter (sched s.paddedBlock) t.idx.toNat) :
    CompletesStep s t (execURnd t.idx t) := by
  have e := execURnd_eq t.idx t
  have hregs : oneRound t.regs K[t.idx.toNat] t.w[t.idx.toNat] =
      workingAfter (sched s.paddedBlock) (t.idx.toNat + 1) := by
    rw [workingAfter_succ _ t.idx.isLt, regs, w]
  generalize oneRound t.regs _ _ = x at e hregs
  by_cases hlast : t.idx.toNat < 63
  · have hsucc := toNat_succ_of_lt hlast
    simp only [hlast, if_true] at e
    refine ⟨_, e, h.write (.rnd rfl blk w ?_), ?_⟩
    · rw [setSeq_regs, setSeq_idx, hsucc, hregs]
    · simp [State.owed, p]
      omega
  · simp only [hlast, if_false] at e
    have h63 : t.idx.toNat = 63 := by omega
    refine ⟨_, e, h.write (.fin rfl rfl blk w ?_), by simp [State.owed, p, h63]⟩
    rw [setSeq_regs, hregs, h63]

theorem Computing.execUFin (h : Computing s t) (p : t.ph = 6) (blk : t.blk = s.paddedBlock)
    (w : t.w = sched s.paddedBlock) (regs : t.regs = workingAfter (sched s.paddedBlock) 64) :
    CompletesStep s t (execUFin t) :=
  ⟨_, rfl, h.finish (.done rfl rfl blk w regs rfl rfl), by simp [State.owed, p]⟩

/-- While the core computes, a core turn completes one of the core steps owed. -/
theorem Computing.coreStep (h : Computing s t) (hp : t.ph ≠ 0) : CompletesStep s t (coreStep t) := by
  cases h.stage with
  | pad p i => exact coreStep_pad p i ▸ h.execUPad p
  | ldw p i blk => exact coreStep_ldw p i ▸ h.execULdw p blk
  | exp p i blk w => exact coreStep_exp p ▸ h.execUExp p i blk w
  | ini p i blk w => exact coreStep_ini p i ▸ h.execUIni p blk w
  | rnd p blk w regs => exact coreStep_rnd p ▸ h.execURnd p blk w regs
  | fin p i blk w regs => exact coreStep_fin p i ▸ h.execUFin p blk w regs
  | done p => exact absurd p hp

/-- The pins do not enter a computation. -/
theorem Computing.setPins (h : Computing s t) (l : List Pins) (r : Option Response) :
    Computing s { t with inputs := l, rsp := r } := by
  refine { h with stage := ?_ }
  cases h.stage with
  | pad p i => exact .pad p i
  | ldw p i blk => exact .ldw p i blk
  | exp p i blk w => exact .exp p i blk w
  | ini p i blk w => exact .ini p i blk w
  | rnd p blk w regs => exact .rnd p blk w regs
  | fin p i blk w regs => exact .fin p i blk w regs
  | done p i blk w regs hd dg => exact .done p i blk w regs hd dg

theorem Computing.ph_eq_zero_iff (h : Computing s t) : t.ph = 0 ↔ t.owed = 0 := by
  cases h.stage with
  | pad p | ldw p | exp p | ini p | rnd p | fin p | done p => simp [State.owed, p]

/-- With no core step owed the digest is there (R164). -/
theorem Computing.finished (h : Computing s t) (howed : t.owed = 0) :
    t.top = .done ∧ t.dg = accumulate (workingAfter (sched s.paddedBlock) 64) := by
  have hp := h.ph_eq_zero_iff.2 howed
  cases h.stage with
  | done _ _ _ _ regs hd dg => exact ⟨top_done_iff.2 ⟨hp, hd⟩, dg.trans (congrArg accumulate regs)⟩
  | pad p | ldw p | exp p | ini p | rnd p | fin p =>
    rw [hp] at p
    exact absurd p (by decide)

/-- A core turn does nothing or runs a micro-operation. -/
theorem eq_or_exec_of_coreStep (e : coreStep t = .next s) : s = t ∨ ∃ i, i.isCommand = false ∧ exec i t = .next s := by
  unfold coreStep at e
  split at e
  · exact .inl (Host.Outcome.next.inj e).symm
  cases hd : decodeSeq t.seq with
  | error err => rw [hd] at e; cases e
  | ok i =>
    rw [hd] at e
    exact .inr ⟨i, not_isCommand_of_decodeSeq hd, e⟩

theorem inputs_of_coreStep (e : coreStep t = .next s) : s.inputs = t.inputs := by
  rcases eq_or_exec_of_coreStep e with rfl | ⟨i, hi, e⟩
  · rfl
  · obtain ⟨-, -, -, -, -, hinputs, -⟩ := microOpFrame i t s hi e
    exact hinputs

/-- While core steps are owed, a core turn completes one of them and a host step leaves what is owed (R193, R216). -/
theorem Computing.step (h : Computing s t) {p : Pins} {rest : List Pins} (hi : t.inputs = p :: rest)
    (hr : p.rst = false) (howed : t.owed ≠ 0) :
    ∃ u, step t = .next u ∧ u.inputs = rest ∧ Computing s u ∧
      u.owed + (if p == coreTurnPins then 1 else 0) = t.owed := by
  have hp : t.ph ≠ 0 := mt h.ph_eq_zero_iff.1 howed
  have htail : t.inputs.tail = rest := congrArg List.tail hi
  have hpins := pins_cons t p rest hi
  obtain ⟨rst, _ | w⟩ := p <;> obtain rfl := hr
  case none =>
    obtain ⟨u, e, hu, hone⟩ := (h.setPins t.inputs.tail none).coreStep hp
    exact ⟨u, (step_coreTurn hpins).trans e, (inputs_of_coreStep e).trans htail, hu, hone⟩
  case some =>
    obtain ⟨c, d, e⟩ := hostStep_of_busy (s := takeInput t) w hp
    exact ⟨_, (step_hostTurn hpins).trans e, htail, h.setPins _ _, rfl⟩

/-- Any host steps and fewer core turns than are owed: the core turns complete as many core steps, and the computation
goes on. -/
theorem Computing.run_schedule (h : Computing s t) {pins rest : List Pins} (hrst : ∀ p ∈ pins, p.rst = false)
    (hi : t.inputs = pins ++ rest) (hcount : pins.count coreTurnPins < t.owed) :
    ∃ u, State.run pins.length t = .next u ∧ u.inputs = rest ∧ Computing s u ∧
      u.owed + pins.count coreTurnPins = t.owed := by
  induction pins generalizing t with
  | nil => exact ⟨t, run_zero t, hi, h, rfl⟩
  | cons p pins ih =>
    obtain ⟨hp, hpins⟩ := List.forall_mem_cons.1 hrst
    rw [List.count_cons] at hcount ⊢
    obtain ⟨u, hu, hui, huc, howed⟩ := h.step hi hp (by omega)
    obtain ⟨v, hv, hvi, hvc, hvowed⟩ := ih huc hpins hui (by omega)
    exact ⟨v, (run_succ _ hu).trans hv, hvi, hvc, by omega⟩

/-- Exactly the core turns owed, with any host steps before the last of them, complete the computation (R164). -/
theorem Computing.run_to_end (h : Computing s t) {between rest : List Pins} (hrst : ∀ p ∈ between, p.rst = false)
    (hi : t.inputs = between ++ coreTurnPins :: rest) (hcount : between.count coreTurnPins + 1 = t.owed) :
    ∃ u, State.run (between.length + 1) t = .next u ∧ u.inputs = rest ∧ Computing s u ∧ u.owed = 0 := by
  obtain ⟨u, hu, hui, huc, howed⟩ := h.run_schedule hrst hi (by omega)
  obtain ⟨v, hv, hvi, hvc, hvowed⟩ := huc.step hui rfl (by omega)
  rw [beq_self_eq_true, if_pos rfl] at hvowed
  exact ⟨v, by rw [run_add _ _ hu, run_succ _ hv, run_zero], hvi, hvc, by omega⟩

end Computation

/-! ### The whole transaction (R111) -/

/-- The digest of a computation is the hash of the input it was started on. -/
theorem hashOf_input {s : State} {m : List Byte} (hinput : s.input = m) (hlen : s.len.toNat = m.length)
    (hm : m.length ≤ maxInput) :
    hashOf m = .ok (serialize (accumulate (workingAfter (sched s.paddedBlock) 64))) := by
  rw [hashOf, dif_pos hm, compress, paddedBlock_eq_pad hinput hlen hm]

/-- `INIT` and the bytes `m` pushed, from any state with `PH = 0`: the first 55 of them are collected. -/
theorem run_init_pushes {s : State} {m : List Byte} {rest : List Pins} (hp : s.ph = 0)
    (hi : s.inputs = present 0x0100 :: (m.map (fun b => present (cmdWord 0x02 b)) ++ rest)) :
    ∃ u t, State.run (m.length + 1) s = .next t ∧ t.inputs = rest ∧ Collected u m t := by
  have hinit : step s = .next (respond (openInvocation (takeInput s)) .ok 0x00) :=
    (step_hostTurn (pins_cons s _ _ hi)).trans (execInit_of_idle (s := takeInput s) hp)
  have start : Collected (respond (openInvocation (takeInput s)) .ok 0x00) []
      (respond (openInvocation (takeInput s)) .ok 0x00) :=
    ⟨List.take_zero, rfl, by simp, hp, rfl, rfl, rfl, rfl⟩
  obtain ⟨t, ht, hti, hc⟩ := start.run_pushes (congrArg List.tail hi)
  exact ⟨_, t, (run_succ _ hinit).trans ht, hti, hc⟩

section Transaction

variable {u t : State} {m : List Byte} {rest : List Pins}

/-- `HASH` on at most 55 bytes starts a computation that owes 116 core steps (R104, R216). -/
theorem Collected.step_hash_of_fits (h : Collected u m t) (hm : m.length ≤ 55)
    (hi : t.inputs = present 0x0300 :: rest) :
    ∃ v, step t = .next v ∧ v.inputs = rest ∧ Computing t v ∧ v.owed = 116 := by
  have ho : t.ovf = false := Bool.eq_false_iff.2 fun ho => by
    have := h.ovf.1 ho
    omega
  have hl : t.len.toNat ≤ 55 := by
    rw [h.len]
    omega
  have e := (step_hostTurn (pins_cons t _ rest hi)).trans (execHash_of_fits (s := takeInput t) h.ph h.done h.err ho)
  exact ⟨_, e, congrArg List.tail hi, ⟨rfl, rfl, hl, .pad rfl rfl⟩, rfl⟩

/-- `HASH` on more than 55 bytes raises `InputTooLong` (R104, R187). -/
theorem Collected.step_hash_of_too_long (h : Collected u m t) (hm : 55 < m.length)
    (hi : t.inputs = present 0x0300 :: rest) : step t = .next (raiseInputTooLong (takeInput t)) :=
  (step_hostTurn (pins_cons t _ rest hi)).trans
    (execHash_of_ovf (s := takeInput t) h.ph h.done h.err (h.ovf.2 hm))

end Transaction

/-- Settles O56: `INIT` and the `PUSH`es collect the bytes, then `HASH` starts the computation or raises. -/
theorem transactionYieldsHash : Obligations.TransactionYieldsHash := by
  intro m s _ hp
  refine ⟨fun hm between rest hrst hcount hi => ?fits, fun hm rest hi => ?tooLong⟩
  all_goals obtain ⟨u, t, ht, hti, hc⟩ := run_init_pushes hp hi
  case fits =>
    obtain ⟨v, hv, hvi, hcomp, howed⟩ := hc.step_hash_of_fits hm hti
    obtain ⟨x, hx, hxi, hend, hzero⟩ := hcomp.run_to_end hrst hvi (by omega)
    obtain ⟨htop, hdg⟩ := hend.finished hzero
    refine ⟨x, ?_, htop, hxi, ?_⟩
    · rw [show m.length + between.length + 3 = m.length + 1 + (between.length + 1 + 1) by omega, run_add _ _ ht,
        run_succ _ hv, hx]
    · rw [hdg]
      exact hashOf_input (hc.input.trans (List.take_of_length_le hm)) (hc.len.trans (Nat.min_eq_left hm)) hm
  case tooLong =>
    refine ⟨raiseInputTooLong (takeInput t), ?_, top_error_iff.2 ⟨hc.ph, hc.done, rfl⟩, congrArg List.tail hti, rfl,
      dif_neg (Nat.not_le.2 hm)⟩
    rw [run_add _ 1 ht, run_succ _ (hc.step_hash_of_too_long hm hti), run_zero]

end Sys2Proof.Machine

/-! Family 41_padder: the index ranges of `pad` (R120), the micro-operation `U.PAD` (R121) and the properties of `pad`
(R122). -/

namespace Sys2Proof.Machine

/-! ### The four index ranges, one by one (R120) -/

section Pad

variable {m : List Byte} (hm : m.length ≤ maxInput)

theorem getElem_pad_of_lt {i : Nat} (h : i < m.length) (hi : i < 64) : (pad m hm)[i] = m[i] := by
  rw [getElem_pad hm hi, dif_pos h]

theorem getElem_pad_marker {i : Nat} (h : i = m.length) (hi : i < 64) : (pad m hm)[i] = 0x80 := by
  rw [getElem_pad hm hi, dif_neg h.not_lt, if_pos h]

theorem getElem_pad_zero {i : Nat} (h : m.length < i) (hi : i < 56) : (pad m hm)[i] = 0x00 := by
  rw [getElem_pad hm (by omega), dif_neg h.not_gt, if_neg h.ne', if_pos hi]

theorem getElem_pad_lengthField {k : Nat} (hk : k < 8) :
    (pad m hm)[56 + k] = be64Byte k (BitVec.ofNat 64 (8 * m.length)) := by
  have hlt : m.length < 56 + k := (Nat.lt_succ_of_le hm).trans_le (Nat.le_add_right 56 k)
  rw [getElem_pad hm (by omega), dif_neg hlt.not_gt, if_neg hlt.ne', if_neg (by omega), Nat.add_sub_cancel_left]

/-! ### The length field as a number (R10, R122) -/

theorem toNat_be64Byte (k : Nat) (v : BitVec 64) : (be64Byte k v).toNat = v.toNat / 2 ^ (56 - 8 * k) % 256 := by
  rw [be64Byte, BitVec.extractLsb'_toNat, Nat.shiftRight_eq_div_pow]

/-- The eight bytes `be64byte_k` of a value, most significant first, are the value as a big-endian number. -/
theorem foldl_be64Byte (v : BitVec 64) :
    ((List.range 8).map fun k => be64Byte k v).foldl (fun acc b => acc * 256 + b.toNat) 0 = v.toNat := by
  have hv := v.isLt
  have hrange : List.range 8 = [0, 1, 2, 3, 4, 5, 6, 7] := rfl
  simp only [hrange, List.map_cons, List.map_nil, List.foldl_cons, List.foldl_nil, toNat_be64Byte]
  omega

include hm in
/-- The length in bits fits the length field. -/
theorem toNat_bitLength : (BitVec.ofNat 64 (8 * m.length)).toNat = 8 * m.length := by
  have hm55 : m.length ≤ 55 := hm
  rw [BitVec.toNat_ofNat, Nat.mod_eq_of_lt (by omega)]

theorem toNat_getElem_pad_lengthField {k : Nat} (hk : k < 8) :
    (pad m hm)[56 + k].toNat = 8 * m.length / 2 ^ (56 - 8 * k) % 256 := by
  rw [getElem_pad_lengthField hm hk, toNat_be64Byte, toNat_bitLength hm]

/-- `8n` is below `2^9`, so the six upper bytes of the length field are zero (R122 (c)). -/
theorem getElem_pad_lengthField_high {i : Nat} (h56 : 56 ≤ i) (h : i < 62) : (pad m hm)[i] = 0x00 := by
  obtain ⟨k, rfl⟩ := Nat.exists_eq_add_of_le h56
  have hm55 : m.length ≤ 55 := hm
  have hpow : 2 ^ 16 ≤ 2 ^ (56 - 8 * k) := Nat.pow_le_pow_right (by decide) (by omega)
  refine BitVec.eq_of_toNat_eq ?_
  rw [toNat_getElem_pad_lengthField hm (by omega), Nat.div_eq_of_lt (by omega)]
  rfl

/-- Byte 62 is `8n` div 256, the one upper byte of the length field that can be non-zero (R122 (c)). -/
theorem toNat_getElem_pad_62 : (pad m hm)[62].toNat = 8 * m.length / 256 := by
  have hm55 : m.length ≤ 55 := hm
  exact (toNat_getElem_pad_lengthField hm (k := 6) (by decide)).trans (Nat.mod_eq_of_lt (by omega))

theorem toNat_getElem_pad_63 : (pad m hm)[63].toNat = 8 * m.length % 256 :=
  (toNat_getElem_pad_lengthField hm (k := 7) (by decide)).trans (by rw [Nat.pow_zero, Nat.div_one])

theorem getElem_pad_62 : (pad m hm)[62] = if 32 ≤ m.length then 0x01 else 0x00 := by
  have hm55 : m.length ≤ 55 := hm
  refine BitVec.eq_of_toNat_eq ((toNat_getElem_pad_62 hm).trans ?_)
  split_ifs
  · change 8 * m.length / 256 = 1
    omega
  · exact Nat.div_eq_of_lt (by omega)

/-! ### The block as a list: input, marker, zero run, length field (R120, R122) -/

theorem toList_pad :
    (pad m hm).toList = m ++ 0x80 :: (List.replicate (55 - m.length) 0x00 ++ lengthField m.length) := by
  simp [pad, padBytes]

theorem take_toList_pad : (pad m hm).toList.take m.length = m := by
  rw [toList_pad, List.take_left]

/-- What follows the marker. -/
theorem drop_toList_pad_marker :
    (pad m hm).toList.drop (m.length + 1) = List.replicate (55 - m.length) 0x00 ++ lengthField m.length := by
  rw [toList_pad, List.drop_length_add_append, List.drop_succ_cons, List.drop_zero]

theorem drop_toList_pad_56 : (pad m hm).toList.drop 56 = lengthField m.length := by
  have hm55 : m.length ≤ 55 := hm
  rw [show 56 = m.length + 1 + (55 - m.length) by omega, ← List.drop_drop, drop_toList_pad_marker,
    List.drop_left' List.length_replicate]

theorem zeroRun_pad :
    ((pad m hm).toList.drop (m.length + 1)).take (55 - m.length) = List.replicate (55 - m.length) 0x00 := by
  rw [drop_toList_pad_marker, List.take_left' List.length_replicate]

/-- The length field is the length in bits (R122 (b)). -/
theorem foldl_drop_pad : ((pad m hm).toList.drop 56).foldl (fun acc b => acc * 256 + b.toNat) 0 = 8 * m.length := by
  rw [drop_toList_pad_56, lengthField, foldl_be64Byte, toNat_bitLength hm]

/-- The length field gives the length, and the bytes below it the input (R122 (e)). -/
theorem pad_injective {m' : List Byte} (hm' : m'.length ≤ maxInput) (h : pad m hm = pad m' hm') : m = m' := by
  have hlen : 8 * m.length = 8 * m'.length := by rw [← foldl_drop_pad hm, h, foldl_drop_pad]
  have hn : m.length = m'.length := Nat.eq_of_mul_eq_mul_left (by decide) hlen
  rw [← take_toList_pad hm, h, hn, take_toList_pad]

end Pad

/-- Settles O32: each index lies in one of the four ranges. -/
theorem padByRanges : Obligations.PadByRanges := fun _ hm =>
  ⟨fun _ => getElem_pad_of_lt hm, getElem_pad_marker hm rfl, fun _ hi h => getElem_pad_zero hm h hi,
    fun _ => getElem_pad_lengthField hm⟩

/-- Settles O33: the properties (a) to (f), from the index ranges and from the block as a list. -/
theorem padProperties : Obligations.PadProperties := fun _ hm =>
  ⟨Vector.length_toList, foldl_drop_pad hm,
    ⟨fun _ h h56 => getElem_pad_lengthField_high hm h56 h, getElem_pad_62 hm, toNat_getElem_pad_62 hm,
      toNat_getElem_pad_63 hm⟩,
    zeroRun_pad hm, fun _ => pad_injective hm,
    getElem_pad_marker hm rfl, fun _ hi h => getElem_pad_zero hm h hi⟩

/-! ### `U.PAD` (R121) -/

/-- Settles O31: `U.PAD` writes `pad` of the input, whose index ranges are known. -/
theorem uPadBuildsBlock : Obligations.UPadBuildsBlock := by
  intro s hl
  have hlen : s.input.length = s.len.toNat := input_length hl
  have hm : s.input.length ≤ maxInput := hlen.trans_le hl
  have hblk : s.paddedBlock = pad s.input hm := paddedBlock_eq_pad rfl hlen.symm hm
  refine ⟨_, execUPad_eq hl, rfl, ?input, ?marker, ?zeros, ?lengthField, fun _ => hblk⟩
  all_goals simp only [setSeq_blk, hblk]
  case input =>
    intro i _ h
    rw [getElem_pad_of_lt hm (hlen ▸ h)]
    simp [State.input]
  case marker => exact getElem_pad_marker hm hlen.symm
  case zeros => exact fun i hi h => getElem_pad_zero hm (hlen ▸ h) hi
  case lengthField => exact fun k hk => hlen ▸ getElem_pad_lengthField hm hk

/-- `U.PAD` on 56 bytes and more has no block to write (R120). -/
theorem execUPad_of_gt {s : State} (h : 55 < s.len.toNat) : execUPad s = .fault .padLengthOutOfRange :=
  if_neg h.not_ge

/-- Settles O9: `LEN` is outside the domain of `pad`. -/
theorem padStopsBeyondMaxInput : Obligations.PadStopsBeyondMaxInput := fun _ => execUPad_of_gt

end Sys2Proof.Machine

/-! Family 42_schedule: the functions `ssig0` and `ssig1` (R130, R131), the micro-operations `U.LDW` (R132) and `U.EXP`
(R133), and that together they compute `sched` of the block (R134). -/

namespace Sys2Proof.Machine

/-! ### `ssig0` and `ssig1` (R130, R131) -/

theorem shr_xor (x y : Word) (n : Nat) : shr (x ^^^ y) n = shr x n ^^^ shr y n :=
  BitVec.ushiftRight_xor_distrib x y n

theorem rotr_xor (x y : Word) {n : Nat} (hn : n ≤ 31) : rotr (x ^^^ y) n = rotr x n ^^^ rotr y n := by
  refine BitVec.eq_of_getLsbD_eq fun i hi => ?_
  simp only [BitVec.getLsbD_xor, getLsbD_rotr hn hi]

theorem ssig0_xor (x y : Word) : ssig0 (x ^^^ y) = ssig0 x ^^^ ssig0 y := by
  simp only [ssig0, rotr_xor x y (n := 7) (by decide), rotr_xor x y (n := 18) (by decide), shr_xor]
  ac_rfl

theorem ssig1_xor (x y : Word) : ssig1 (x ^^^ y) = ssig1 x ^^^ ssig1 y := by
  simp only [ssig1, rotr_xor x y (n := 17) (by decide), rotr_xor x y (n := 19) (by decide), shr_xor]
  ac_rfl

/-- A right shift enters zeros at the top (R8). -/
theorem getLsbD_shr_of_le (x : Word) {n i : Nat} (h : 32 ≤ n + i) : (shr x n).getLsbD i = false := by
  rw [shr, BitVec.getLsbD_ushiftRight, BitVec.getLsbD_of_ge x _ h]

/-- Settles O43: rotations and shifts are linear over `xor`, so their `xor` is; the values are evaluated. -/
theorem smallSigmaLinear : Obligations.SmallSigmaLinear :=
  ⟨fun x y => ⟨ssig0_xor x y, ssig1_xor x y⟩, fun _ => ⟨rfl, rfl⟩, fun x _ hi _ => getLsbD_shr_of_le x (by omega),
    by decide⟩

/-! ### `U.LDW` (R132) -/

theorem toNat_blockWord (B : Vector Byte 64) {k : Nat} (hk : k < 16) :
    (blockWord B k hk).toNat = B[4 * k].toNat * 2 ^ 24 + B[4 * k + 1].toNat * 2 ^ 16 + B[4 * k + 2].toNat * 2 ^ 8 +
      B[4 * k + 3].toNat :=
  toNat_be32 ..

/-- Settles O34: the words loaded are big-endian numbers, the others are in the frame of `U.LDW`. -/
theorem uLdwLoadsBlock : Obligations.ULdwLoadsBlock := by
  intro s
  obtain ⟨w, e, hw⟩ := execULdw_loads s
  obtain ⟨-, -, -, -, -, -, -, -, -, hframe, -⟩ := microOpFrame .uLdw s _ rfl e
  refine ⟨_, e, rfl, fun k hk => ?_, hframe rfl⟩
  rw [setSeq_w, hw k hk, toNat_blockWord]

/-! ### `U.EXP` (R133) -/

theorem toNat_expandWord (w : Vector Word 64) {i : Nat} (hi : i < 64) :
    (expandWord w i hi).toNat =
      (w[i - 16].toNat + (ssig0 w[i - 15]).toNat + w[i - 7].toNat + (ssig1 w[i - 2]).toNat) % 2 ^ 32 := by
  simp only [expandWord, expandSum, toNat_add32, Nat.mod_add_mod]

/-- Settles O35: the one word written is the sum, and the sequencer goes on by the value of `i`. -/
theorem uExpExpandsWord : Obligations.UExpExpandsWord := by
  intro s i hi h16
  refine ⟨_, execUExp_of_le h16, rfl, ?word, ?frame, ?next, ?last⟩
  case word => rw [setSeq_w, Vector.getElem_set_self, toNat_expandWord]
  case frame => exact fun k hk hne => Vector.getElem_set_ne hi hk hne.symm
  case next =>
    intro h
    simp only [setSeq_ph, setSeq_idx, h, if_true]
    exact ⟨trivial, toNat_succ_of_lt h⟩
  case last =>
    intro h
    simp [h]

/-! ### The schedule (R134) -/

theorem toNat_getElem_sched (B : Vector Byte 64) {i : Nat} (h16 : 16 ≤ i) (hi : i < 64) :
    (sched B)[i].toNat = ((sched B)[i - 16].toNat + (ssig0 (sched B)[i - 15]).toNat + (sched B)[i - 7].toNat +
      (ssig1 (sched B)[i - 2]).toNat) % 2 ^ 32 :=
  (congrArg BitVec.toNat (getElem_sched_of_le B h16 hi)).trans (toNat_expandWord _ hi)

section Undriven

variable {s : State} (hin : s.inputs = [])

include hin

/-- With nothing driven a transition is the core's turn, which besides clears the response. -/
theorem step_of_undriven : step s = coreStep { s with rsp := none } := by
  have ht : State.coreTurn s := by rw [State.coreTurn, State.pins, hin, List.headD_nil]
  have htail : s.inputs.tail = s.inputs := by rw [hin, List.tail_nil]
  rw [step_coreTurn ht, takeInput, htail]

theorem step_uLdw (hp : s.ph = 2) (hi : s.idx = 0) :
    ∃ w, step s = .next { s with w := w, ph := 3, idx := 16, rsp := none } ∧
      ∀ (k : Nat) (hk : k < 16), w[k] = blockWord s.blk k hk := by
  rw [step_of_undriven hin, coreStep_ldw (s := { s with rsp := none }) hp hi]
  exact execULdw_loads _

theorem step_uExp (hp : s.ph = 3) (h16 : 16 ≤ s.idx.toNat) :
    step s = .next { s with
      w := s.w.set s.idx.toNat (expandWord s.w s.idx.toNat s.idx.isLt) s.idx.isLt
      ph := if s.idx.toNat < 63 then 3 else 4
      idx := if s.idx.toNat < 63 then s.idx + 1 else 0
      rsp := none } := by
  rw [step_of_undriven hin, coreStep_exp (s := { s with rsp := none }) hp]
  exact execUExp_of_le h16

/-- Where `W` holds the schedule of `B` below `IDX`, the `U.EXP` steps from `IDX` to 63 complete it: by induction on the
number of steps after the first. -/
theorem run_uExp {B : Vector Byte 64} {n : Nat} (hp : s.ph = 3) (h16 : 16 ≤ s.idx.toNat)
    (hn : s.idx.toNat + n = 63) (hw : ∀ (k : Nat) (hk : k < 64), k < s.idx.toNat → s.w[k] = (sched B)[k]) :
    State.run (n + 1) s = .next { s with w := sched B, ph := 4, idx := 0, rsp := none } := by
  induction n generalizing s with
  | zero =>
    have hlast : ¬ s.idx.toNat < 63 := by omega
    have hall : s.w.set s.idx.toNat (expandWord s.w s.idx.toNat s.idx.isLt) = sched B :=
      Vector.ext fun k hk => getElem_set_expandWord B h16 s.idx.isLt hw hk (by omega)
    rw [run_succ 0 (step_uExp hin hp h16), run_zero, if_neg hlast, if_neg hlast, hall]
  | succ n ih =>
    have hmore : s.idx.toNat < 63 := by omega
    have hsucc := toNat_succ_of_lt hmore
    rw [run_succ (n + 1) (step_uExp hin hp h16), if_pos hmore, if_pos hmore]
    refine ih hin rfl (hsucc ▸ by omega) (hsucc ▸ by omega) fun k hk hlt => ?_
    exact getElem_set_expandWord B h16 s.idx.isLt hw hk (Nat.le_of_lt_succ (hlt.trans_eq hsucc))

/-- `U.LDW` loads the first sixteen words of the schedule, and the 48 `U.EXP` steps complete it. -/
theorem run_schedule (hp : s.ph = 2) (hi : s.idx = 0) :
    State.run 49 s = .next { s with w := sched s.blk, ph := 4, idx := 0, rsp := none } := by
  obtain ⟨w, e, hw⟩ := step_uLdw hin hp hi
  rw [run_succ 48 e]
  refine run_uExp (s := { s with w := w, ph := 3, idx := 16, rsp := none }) hin rfl (le_refl 16) rfl fun k _ hk => ?_
  have hk16 : k < 16 := hk
  exact (hw k hk16).trans (getElem_sched_of_lt _ hk16).symm

end Undriven

/-- Settles O36, from the two rows of the recurrence and the run of the 49 transitions. -/
theorem scheduleComputesSched : Obligations.ScheduleComputesSched :=
  ⟨fun B => ⟨fun _ => getElem_sched_of_lt B, fun _ hi h16 => toNat_getElem_sched B h16 hi⟩,
    fun _ hin hp hi => ⟨_, run_schedule hin hp hi, rfl⟩⟩

end Sys2Proof.Machine

/-! Family 43_rounds: the functions `bsig0`, `bsig1` (R140, R142), `ch` and `maj` (R141, R143), and the micro-operations
`U.INI` (R144) and `U.RND` (R145, R146). -/

namespace Sys2Proof.Machine

/-! ### `bsig0` and `bsig1` (R140, R142) -/

theorem bsig0_xor (x y : Word) : bsig0 (x ^^^ y) = bsig0 x ^^^ bsig0 y := by
  simp only [bsig0, rotr_xor x y (n := 2) (by decide), rotr_xor x y (n := 13) (by decide),
    rotr_xor x y (n := 22) (by decide)]
  ac_rfl

theorem bsig1_xor (x y : Word) : bsig1 (x ^^^ y) = bsig1 x ^^^ bsig1 y := by
  simp only [bsig1, rotr_xor x y (n := 6) (by decide), rotr_xor x y (n := 11) (by decide),
    rotr_xor x y (n := 25) (by decide)]
  ac_rfl

/-- Settles O44: rotations are linear over `xor`, so their `xor` is; the values are evaluated. -/
theorem bigSigmaLinear : Obligations.BigSigmaLinear :=
  ⟨fun x y => ⟨bsig0_xor x y, bsig1_xor x y⟩, fun _ => ⟨rfl, rfl⟩, by decide⟩

/-! ### `ch` and `maj` bit by bit (R141, R143) -/

theorem allOnes_word : (0xFFFFFFFF : Word) = BitVec.allOnes 32 := rfl

theorem not32_eq_not (x : Word) : not32 x = ~~~x := by
  rw [not32, allOnes_word, BitVec.xor_allOnes]

/-- The formula of R143 for one bit is the majority of the three. -/
theorem xor_and_eq_true_iff_two_le (a b c : Bool) :
    ((a && b) ^^ (a && c) ^^ (b && c)) = true ↔ 2 ≤ a.toNat + b.toNat + c.toNat := by
  revert a b c
  decide

section Bits

variable (x y z : Word) {i : Nat}

/-- A set bit of `x` chooses `y`, a clear one `z` (R141). -/
theorem getLsbD_ch (hi : i < 32) :
    (ch x y z).getLsbD i = if x.getLsbD i = true then y.getLsbD i else z.getLsbD i := by
  simp only [ch, not32_eq_not, BitVec.getLsbD_xor, BitVec.getLsbD_and, BitVec.getLsbD_not, hi]
  cases x.getLsbD i <;> simp

theorem getLsbD_maj :
    (maj x y z).getLsbD i =
      ((x.getLsbD i && y.getLsbD i) ^^ (x.getLsbD i && z.getLsbD i) ^^ (y.getLsbD i && z.getLsbD i)) := by
  simp only [maj, BitVec.getLsbD_xor, BitVec.getLsbD_and]

theorem getLsbD_maj_iff :
    (maj x y z).getLsbD i = true ↔ 2 ≤ (x.getLsbD i).toNat + (y.getLsbD i).toNat + (z.getLsbD i).toNat := by
  rw [getLsbD_maj, xor_and_eq_true_iff_two_le]

/-! #### The laws of `ch` (R141) -/

/-- The two terms of `ch` never have a 1 in the same position, so `xor` equals `or`. -/
theorem ch_eq_or : ch x y z = (x &&& y) ||| (not32 x &&& z) := by
  refine BitVec.eq_of_getLsbD_eq fun i hi => ?_
  rw [getLsbD_ch x y z hi, not32_eq_not]
  simp only [BitVec.getLsbD_or, BitVec.getLsbD_and, BitVec.getLsbD_not, hi]
  cases x.getLsbD i <;> simp

theorem ch_allOnes : ch 0xFFFFFFFF y z = y := by
  refine BitVec.eq_of_getLsbD_eq fun i hi => ?_
  rw [getLsbD_ch _ y z hi, allOnes_word, BitVec.getLsbD_allOnes, if_pos (decide_eq_true hi)]

theorem ch_zero : ch 0 y z = z := by
  refine BitVec.eq_of_getLsbD_eq fun i hi => ?_
  rw [getLsbD_ch _ y z hi]
  simp

theorem ch_self : ch x y y = y := by
  refine BitVec.eq_of_getLsbD_eq fun i hi => ?_
  rw [getLsbD_ch x y y hi, ite_self]

/-! #### The laws of `maj` (R143) -/

theorem maj_swap_left : maj x y z = maj y x z := by
  simp only [maj]
  ac_rfl

theorem maj_swap_right : maj x y z = maj x z y := by
  simp only [maj]
  ac_rfl

theorem maj_self : maj x x z = x := by
  rw [maj, BitVec.and_self, BitVec.xor_assoc, BitVec.xor_self, BitVec.xor_zero]

theorem maj_zero : maj 0 y z = y &&& z := by
  simp [maj]

/-- Beside a set bit the majority is a set bit of either. -/
theorem maj_allOnes : maj 0xFFFFFFFF y z = y ||| z := by
  refine BitVec.eq_of_getLsbD_eq fun i hi => ?_
  rw [getLsbD_maj, allOnes_word]
  simp only [BitVec.getLsbD_allOnes, BitVec.getLsbD_or, hi]
  cases y.getLsbD i <;> simp

end Bits

/-- Settles O45, from the bits and the laws above; the values are evaluated. -/
theorem chooseAndMajority : Obligations.ChooseAndMajority :=
  ⟨fun x y z _ hi => ⟨getLsbD_ch x y z hi, getLsbD_maj_iff x y z⟩,
    fun x y z => ⟨rfl, ch_eq_or x y z, ch_allOnes y z, ch_zero y z, ch_self x y, rfl, maj_swap_left x y z,
      maj_swap_right x y z, maj_self x z, maj_zero y z, maj_allOnes y z⟩,
    by decide⟩

/-! ### `U.INI` (R144) -/

/-- Settles O37: `initialWorking` is the ROM `IV`, element by element. -/
theorem uIniSeedsRegisters : Obligations.UIniSeedsRegisters := fun _ => rfl

/-! ### `U.RND`: one round (R145, R146) -/

section Round

variable (x : Working) (k w : Word)

/-- `t1` is one sum over the old registers, reduced once. -/
theorem toNat_roundT1 :
    (roundT1 x k w).toNat =
      (x.h.toNat + (bsig1 x.e).toNat + (ch x.e x.f x.g).toNat + k.toNat + w.toNat) % 2 ^ 32 := by
  simp only [roundT1, toNat_add32, Nat.mod_add_mod]

theorem toNat_roundT2 : (roundT2 x).toNat = ((bsig0 x.a).toNat + (maj x.a x.b x.c).toNat) % 2 ^ 32 :=
  toNat_add32 ..

theorem toNat_oneRound_a :
    (oneRound x k w).a.toNat =
      (x.h.toNat + (bsig1 x.e).toNat + (ch x.e x.f x.g).toNat + k.toNat + w.toNat +
        ((bsig0 x.a).toNat + (maj x.a x.b x.c).toNat)) % 2 ^ 32 := by
  rw [oneRound, toNat_add32, toNat_roundT1, toNat_roundT2, ← Nat.add_mod]

theorem toNat_oneRound_e :
    (oneRound x k w).e.toNat =
      (x.d.toNat + (x.h.toNat + (bsig1 x.e).toNat + (ch x.e x.f x.g).toNat + k.toNat + w.toNat)) % 2 ^ 32 := by
  rw [oneRound, toNat_add32, toNat_roundT1, Nat.add_mod_mod]

end Round

/-- Settles O38: the registers are those of one round over the old ones, and the sequencer goes on by the value of `i`. -/
theorem uRndRunsRound : Obligations.URndRunsRound := by
  intro s i hi
  refine ⟨_, execURnd_eq i s, rfl, ⟨toNat_oneRound_a .., toNat_oneRound_e ..⟩,
    rfl, rfl, rfl, rfl, rfl, rfl, ?next, ?last⟩
  case next =>
    intro h
    simp only [setSeq_ph, setSeq_idx, h, if_true]
    exact ⟨trivial, toNat_succ_of_lt h⟩
  case last =>
    intro h
    simp [h]

end Sys2Proof.Machine

/-! Family 44_digest: the micro-operation `U.FIN` (R160), the composite function `hash` (R163), `HASH` and the core steps
after it (R164), and how long the digest lasts (R165). -/

namespace Sys2Proof.Machine

/-! ### `U.FIN` (R160) -/

theorem toNat_getElem_accumulate (x : Working) {j : Nat} (hj : j < 8) :
    (accumulate x)[j].toNat = (IV[j].toNat + x.r[j].toNat) % 2 ^ 32 := by
  rw [accumulate, Vector.getElem_ofFn]
  exact toNat_add32 _ _

/-- Settles O39: the digest is `accumulate` of the working registers, and `r[0..7]` are `a` to `h`. -/
theorem uFinWritesDigest : Obligations.UFinWritesDigest := by
  intro s
  have hsum (j : Nat) (hj : j < 8) := toNat_getElem_accumulate s.regs hj
  exact ⟨_, rfl, rfl, hsum 0 (by decide), hsum 1 (by decide), hsum 2 (by decide), hsum 3 (by decide),
    hsum 4 (by decide), hsum 5 (by decide), hsum 6 (by decide), hsum 7 (by decide)⟩

/-! ### The function `hash` and its printed values (R163) -/

theorem hashOf_of_le {m : List Byte} (hm : m.length ≤ maxInput) : hashOf m = .ok (compress (pad m hm)) := dif_pos hm

theorem hashOf_of_too_long {m : List Byte} (hm : 56 ≤ m.length) : hashOf m = .error .inputTooLong :=
  dif_neg (Nat.not_le.2 hm)

/-- Settles O55: the two cases of the definition; the two printed digests are evaluated. -/
theorem hashFunctionAndSourceDigests : Obligations.HashFunctionAndSourceDigests :=
  ⟨fun _ => hashOf_of_le, fun _ => hashOf_of_too_long, by decide +kernel, by decide +kernel⟩

/-! ### `HASH` and 116 core turns (R164) -/

section Hash

variable {s t : State}

/-- `HASH` in `COLLECT` with an input that fits answers `OK` and starts a computation that owes 116 core steps (R104). -/
theorem step_hash_in_collect {rest : List Pins} (h : CoreInv s) (htop : s.top = .collect) (ho : s.ovf = false)
    (hi : s.inputs = present 0x0300 :: rest) :
    ∃ v, step s = .next v ∧ v.rsp = some ⟨.ok, 0x00⟩ ∧ v.inputs = rest ∧ Computing s v ∧ v.owed = 116 := by
  obtain ⟨hp, hd, he⟩ := top_collect_iff.1 htop
  have e := execHash_of_fits (s := takeInput s) hp hd he ho
  exact ⟨_, (step_hostTurn (pins_cons s _ _ hi)).trans e, rfl, congrArg List.tail hi,
    ⟨rfl, rfl, h.len_le, .pad rfl rfl⟩, rfl⟩

/-- While core steps are owed the core is `BUSY` (R216). -/
theorem Computing.top_busy (h : Computing s t) (howed : t.owed ≠ 0) : t.top = .busy :=
  top_busy_iff.2 (mt h.ph_eq_zero_iff.1 howed)

/-- With no core step owed the datapath still shows what it has computed (R164). -/
theorem Computing.datapath_of_finished (h : Computing s t) (howed : t.owed = 0) :
    t.blk = s.paddedBlock ∧ t.w = sched s.paddedBlock ∧ t.regs = workingAfter (sched s.paddedBlock) 64 := by
  have hp := h.ph_eq_zero_iff.2 howed
  cases h.stage with
  | done _ _ blk w regs => exact ⟨blk, w, regs⟩
  | pad p | ldw p | exp p | ini p | rnd p | fin p =>
    rw [hp] at p
    exact absurd p (by decide)

/-- Before the last core step owed, however far a schedule has come, the core is `BUSY`. -/
theorem Computing.busy_before_end (h : Computing s t) {between rest : List Pins} (hrst : ∀ p ∈ between, p.rst = false)
    (hi : t.inputs = between ++ rest) (hcount : between.count coreTurnPins < t.owed) {k : Nat}
    (hk : k ≤ between.length) : ∃ u, State.run k t = .next u ∧ u.top = .busy := by
  have hsplit : t.inputs = between.take k ++ (between.drop k ++ rest) := by
    rw [hi, ← List.append_assoc, List.take_append_drop]
  have hle : (between.take k).count coreTurnPins ≤ between.count coreTurnPins :=
    (List.take_sublist k between).count_le coreTurnPins
  obtain ⟨u, hu, -, huc, howed⟩ :=
    h.run_schedule (fun p hp => hrst p (List.mem_of_mem_take hp)) hsplit (hle.trans_lt hcount)
  rw [List.length_take_of_le hk] at hu
  exact ⟨u, hu, huc.top_busy (by omega)⟩

end Hash

/-- Settles O54: `HASH` starts a computation that owes 116 core steps; a schedule with 115 core turns leaves one owed, and
the last one finishes it. -/
theorem hashComputesDigest : Obligations.HashComputesDigest := by
  intro s between rest hm hinv htop ho hrst hcount hi
  obtain ⟨v, hstep, hrsp, hvi, hcomp, howed⟩ := step_hash_in_collect hinv htop ho hi
  have hrun (k : Nat) : State.run (1 + k) s = State.run k v := run_add 1 k ((run_succ 0 hstep).trans (run_zero v))
  refine ⟨⟨v, hstep, hrsp⟩, fun k hk => ?busy, ?done⟩
  case busy =>
    rw [hrun]
    exact hcomp.busy_before_end hrst hvi (by omega) hk
  case done =>
    have hlen := (input_length hinv.len_le).symm
    obtain ⟨t, ht, hti, hend, hzero⟩ := hcomp.run_to_end hrst hvi (by omega)
    obtain ⟨hdone, hdg⟩ := hend.finished hzero
    obtain ⟨hblk, hw, hregs⟩ := hend.datapath_of_finished hzero
    rw [paddedBlock_eq_pad rfl hlen hm] at hblk hw hregs hdg
    have hview : serialize t.dg = compress (pad s.input hm) := congrArg serialize hdg
    refine ⟨t, ?run, hdone, hti, hblk, hw, hregs, hview, ?hash, hend.len, hend.ib⟩
    case run => rw [Nat.add_assoc, hrun, ht]
    case hash => rw [hashOf_of_le hm, hview]

/-! ### How long the digest lasts (R165) -/

section Lasting

variable {s t : State}

theorem CoreInv.ph_of_done (h : CoreInv s) (hd : s.done = true) : s.ph = 0 := by
  by_contra hp
  simp [(h.computing hp).1] at hd

/-- No host command writes the digest (R65). -/
theorem CommandEffect.dg_eq (e : CommandEffect s t) : t.dg = s.dg := by
  cases e with
  | answer | opened | stored | overflowed | raised | started => rfl

/-- While `DONE` is set a core turn finds the sequencer idle (R33). -/
theorem step_coreTurn_of_done (h : CoreInv s) (hd : s.done = true) (ht : State.coreTurn s) :
    step s = .next (takeInput s) :=
  (step_coreTurn ht).trans (coreStep_idle (s := takeInput s) (h.ph_of_done hd) (h.idx_of_idle (h.ph_of_done hd)))

/-- While `DONE` is set no transition but a reset writes the digest. -/
theorem dg_of_step_of_done (h : CoreInv s) (hd : s.done = true) (hr : s.pins.rst = false)
    (e : step s = .next t) : t.dg = s.dg := by
  rcases turn_cases s with ht | ⟨w, ht⟩ | ht
  · simp [ht] at hr
  · obtain ⟨u, hu, effect⟩ := hostStep_next w (takeInput s)
    obtain rfl := Host.Outcome.next.inj (hu.symm.trans ((step_hostTurn ht).symm.trans e))
    exact effect.dg_eq
  · obtain rfl := Host.Outcome.next.inj ((step_coreTurn_of_done h hd ht).symm.trans e)
    rfl

/-- `DONE` is left by leaving the top-level state, and that by `INIT` only. -/
theorem done_of_step_of_done (h : CoreInv s) (hd : s.done = true) (hr : s.pins.rst = false)
    (e : step s = .next t) (hinit : ¬ State.hostTurn s 0x0100) : t.done = true := by
  have hp := h.ph_of_done hd
  have htop : t.top = s.top := by
    by_contra hne
    exact hinit (hostTurn_init_of_leaving_ended h hr hp (.inl hd) e hne)
  exact (top_done_iff.1 (htop.trans (top_done_iff.2 ⟨hp, hd⟩))).2

/-- `RDD j` while `DONE` is set answers byte `j` of the view (R108). -/
theorem step_rdd_of_done (h : CoreInv s) (hd : s.done = true) {j : BitVec 5}
    (ht : State.hostTurn s (cmdWord 0x05 (rddImm j))) :
    step s = .next (respond (takeInput s) .ok (doutByte s.dg j)) := by
  rw [step_hostTurn ht, hostStep_of_decode _ (decodeCommand_eq_ok_iff.2 (encode_rdd j))]
  exact execRdd_of_done (s := takeInput s) j (h.ph_of_done hd) hd

end Lasting

/-- Settles O52: no transition but a reset writes the digest, only `INIT` leaves `DONE`, and `RDD` reads the view. -/
theorem digestImmutableWhileDone : Obligations.DigestImmutableWhileDone := by
  intro s t h hd hr e
  refine ⟨dg_of_step_of_done h hd hr e, done_of_step_of_done h hd hr e, fun j ht => ?_⟩
  obtain rfl := Host.Outcome.next.inj ((step_rdd_of_done h hd ht).symm.trans e)
  rfl

end Sys2Proof.Machine

/-! Family 60_exceptions: the responses by their priority (R100, R183, R186), host steps while the core computes (R193),
the outputs (R185), and how `InputTooLong` is raised and left (R187, R189, R190). -/

namespace Sys2Proof.Machine

/-! ### Which command a word presents (R84) -/

section Words

variable {w : CmdWord} {i : Instr}

theorem decodeCommand_of_cmdOp_push (h : cmdOp w = 0x02) : decodeCommand w = .ok (.push (cmdImm w)) := by
  rw [← decodeCommand_push, ← h, cmdWord_fields]

/-- A word that is a command, but neither `NOP` nor a read of R105 to R107, presents one that R100 gates. -/
theorem gated_of_decodeCommand (h : decodeCommand w = .ok i) (hw : w ∉ [0x0000, 0x0400, 0x0401, 0x0402]) :
    i = .init ∨ i = .hash ∨ (∃ b, i = .push b) ∨ ∃ j, i = .rdd j := by
  rw [decodeCommand_eq_ok_iff] at h
  cases i with
  | init => exact .inl rfl
  | hash => exact .inr (.inl rfl)
  | push b => exact .inr (.inr (.inl ⟨b, rfl⟩))
  | rdd j => exact .inr (.inr (.inr ⟨j, rfl⟩))
  | nop | rds | rdl | rde => cases h; exact absurd (by decide) hw
  | uPad | uLdw | uExp _ | uIni | uRnd _ | uFin => cases h

/-- The command of a legal word with one of the opcodes `PUSH`, `HASH`, `RDD`. -/
theorem instr_of_cmdOp (h : decodeCommand w = .ok i) :
    (cmdOp w = 0x02 → ∃ b, i = .push b) ∧ (cmdOp w = 0x03 → i = .hash) ∧ (cmdOp w = 0x05 → ∃ j, i = .rdd j) := by
  rw [decodeCommand_eq_ok_iff] at h
  cases i with
  | nop | init | push b | hash | rds | rdl | rde | rdd j => cases h; simp
  | uPad | uLdw | uExp _ | uIni | uRnd _ | uFin => cases h

/-- The words of the four gated commands, by value or by pattern, present them. -/
theorem decodeCommand_gated (h : w = 0x0100 ∨ w = 0x0300 ∨ cmdOp w = 0x02 ∨ w &&& 0xFFE0 = 0x0500) :
    ∃ i, decodeCommand w = .ok i ∧ (i = .init ∨ i = .hash ∨ (∃ b, i = .push b) ∨ ∃ j, i = .rdd j) := by
  rcases h with rfl | rfl | h | h
  · exact ⟨.init, rfl, .inl rfl⟩
  · exact ⟨.hash, rfl, .inr (.inl rfl)⟩
  · exact ⟨_, decodeCommand_of_cmdOp_push h, .inr (.inr (.inl ⟨_, rfl⟩))⟩
  · obtain ⟨-, -, -, -, -, -, -, hrdd⟩ := commandPatternsSelect.1 w
    exact ⟨_, (hrdd _).2 ⟨h, rfl⟩, .inr (.inr (.inr ⟨_, rfl⟩))⟩

end Words

/-! ### The responses (R183, R186, R193) -/

section Responses

variable {s t t' : State} {i : Instr} {r r' : Response}

/-- An outcome has one next state, so one response. -/
theorem rsp_unique {o : Result} (h : o = .next t) (hr : t.rsp = some r) (h' : o = .next t') (hr' : t'.rsp = some r') :
    r = r' := by
  obtain rfl := Host.Outcome.next.inj (h.symm.trans h')
  exact Option.some.inj (hr.symm.trans hr')

/-- A rejection carries no data. -/
theorem ResponseOf.data_of_rejected (h : ResponseOf i r) (hok : r.code ≠ .ok) (hfail : r.code ≠ .fail) :
    r.data = 0x00 := by
  cases h with
  | rejected => rfl
  | executed | readStatus | readLength | readError | readDigest => exact absurd rfl hok
  | raised => exact absurd rfl hfail

/-- Every effect of a command but the bare answer comes with `OK` or `FAIL`. -/
theorem CommandEffect.eq_of_rejected (e : CommandEffect s t) (hr : t.rsp = some r) (hok : r.code ≠ .ok)
    (hfail : r.code ≠ .fail) : t = { s with rsp := some r } := by
  cases e with
  | answer => cases hr; rfl
  | opened | stored | overflowed | started => cases hr; exact absurd rfl hok
  | raised => cases hr; exact absurd rfl hfail

/-- With `ERR` set nothing is raised again (R190). -/
theorem CommandEffect.code_ne_fail (e : CommandEffect s t) (herr : s.err = true) (hr : t.rsp = some r) :
    r.code ≠ .fail := by
  cases e with
  | answer c d hc => cases hr; exact hc
  | opened => cases hr; simp
  | stored _ _ _ he | overflowed _ _ he | raised _ _ he | started _ _ he => simp [he] at herr

end Responses

/-- Settles O21: a word that is no command is answered `ILLEGAL`, and a command passes its gates one by one. -/
theorem responsePriority : Obligations.ResponsePriority := by
  intro s w
  cases hdec : decodeCommand w with
  | error err =>
    have hill := illegalWord_of_error hdec
    exact ⟨_, _, hostStep_of_illegal s hdec, rfl, fun _ => rfl, fun h => absurd hill h, fun h => absurd hill h⟩
  | ok i =>
    obtain ⟨t, ht, r, hr, -⟩ := answers_exec s (isCommand_of_decodeCommand hdec)
    have code {u : State} {c : RspCode} {d : Byte} (hu : exec i s = .next u) (hrsp : u.rsp = some ⟨c, d⟩) :
        r.code = c := congrArg Response.code (rsp_unique ht hr hu hrsp)
    obtain ⟨hpush, hhash, hrdd⟩ := instr_of_cmdOp hdec
    refine ⟨t, r, (hostStep_of_decode s hdec).trans ht, hr, fun h => absurd h (not_illegalWord_of_decode hdec),
      fun _ hread => ?ungated, fun _ hread => ⟨fun hp => ?busy, fun hp hw => ?init, fun hp hop hend => ?ended,
        fun hp hop => ?rdd, fun hp hd he hop => ?push, fun hp hd he hop => ?hash⟩⟩
    case ungated =>
      simp only [List.mem_cons, List.not_mem_nil, or_false] at hread
      rcases hread with rfl | rfl | rfl | rfl <;> cases hdec <;> exact code rfl rfl
    case busy => exact code (exec_of_busy hp (gated_of_decodeCommand hdec hread)) rfl
    case init =>
      subst hw
      cases hdec
      exact code (execInit_of_idle hp) rfl
    case ended =>
      rcases hop with hop | hop
      · obtain ⟨b, rfl⟩ := hpush hop
        exact code (execPush_of_ended b hp hend) rfl
      · obtain rfl := hhash hop
        exact code (execHash_of_ended hp hend) rfl
    case rdd =>
      obtain ⟨j, rfl⟩ := hrdd hop
      cases hd : s.done
      · exact code (execRdd_of_not_done j hp hd) rfl
      · exact code (execRdd_of_done j hp hd) rfl
    case push =>
      obtain ⟨b, rfl⟩ := hpush hop
      obtain ⟨u, hu, hrsp, -⟩ := exec_push_in_collect b hp hd he
      exact code hu hrsp
    case hash =>
      obtain rfl := hhash hop
      cases ho : s.ovf
      · exact code (execHash_of_fits hp hd he ho) rfl
      · exact code (execHash_of_ovf hp hd he ho) rfl

/-- Settles O23: a rejected command has had no effect but its answer, which carries no data. -/
theorem rejectionsChangeNothing : Obligations.RejectionsChangeNothing := by
  intro s t w r e hr hcode
  have hok : r.code ≠ .ok := by rcases hcode with h | h | h <;> simp [h]
  have hfail : r.code ≠ .fail := by rcases hcode with h | h | h <;> simp [h]
  obtain ⟨u, hu, effect⟩ := hostStep_next w s
  obtain rfl := Host.Outcome.next.inj (hu.symm.trans e)
  refine ⟨?_, effect.eq_of_rejected hr hok hfail⟩
  cases hdec : decodeCommand w with
  | error err => rw [rsp_unique e hr (hostStep_of_illegal s hdec) rfl]
  | ok i =>
    obtain ⟨v, hv, r', hr', h⟩ := answers_exec s (isCommand_of_decodeCommand hdec)
    obtain rfl := rsp_unique e hr ((hostStep_of_decode s hdec).trans hv) hr'
    exact h.data_of_rejected hok hfail

/-- Settles O51: a host step only answers, and each class of words has its answer. -/
theorem hostStepsWhileBusyChangeNothing : Obligations.HostStepsWhileBusyChangeNothing := by
  intro s w hp ht
  obtain ⟨c, d, e⟩ := hostStep_of_busy (s := takeInput s) w hp
  have answer {u : State} {r : Response} (hu : hostStep w (takeInput s) = .next u) (hrsp : u.rsp = some r) :
      ⟨c, d⟩ = r := rsp_unique e rfl hu hrsp
  refine ⟨⟨c, d⟩, (step_hostTurn ht).trans e, fun hw => ?illegal, fun hw => ?ungated, fun hw h => ?status,
    fun hw => ?gated⟩
  case illegal => exact answer (illegalWordsAnsweredIllegal.2 _ w hw) rfl
  case ungated => rcases hw with rfl | rfl | rfl | rfl <;> exact congrArg Response.code (answer rfl rfl)
  case status =>
    subst hw
    rw [answer rfl rfl]
    exact h.takeInput.status_of_busy hp
  case gated =>
    obtain ⟨i, hdec, hgated⟩ := decodeCommand_gated hw
    exact answer ((hostStep_of_decode _ hdec).trans (exec_of_busy hp hgated)) rfl

/-- Settles O27: `STATUS` is made of the registers the outputs show. -/
theorem outputsEqualStatusBits : Obligations.OutputsEqualStatusBits := fun s =>
  have ⟨hbusy, hdone, herr, _⟩ := status_bits s
  ⟨hbusy.symm, hdone.symm, herr.symm, CoreInv.not_both⟩

/-! ### The exception (R187, R189, R190) -/

section Exception

variable {s : State}

theorem status_of_error (hp : s.ph = 0) (hd : s.done = false) (he : s.err = true) (ho : s.ovf = true) :
    s.status = 0x0C := by
  rw [State.status, State.busy, hp, hd, he, ho]
  rfl

/-- `INIT` in a host step outside a computation opens an invocation (R102). -/
theorem step_init_of_idle (ht : State.hostTurn s 0x0100) (hp : s.ph = 0) :
    step s = .next (respond (openInvocation (takeInput s)) .ok 0x00) :=
  (step_hostTurn ht).trans (execInit_of_idle (s := takeInput s) hp)

/-- In `ERROR` a host step with another word than that of `INIT` only answers, and does not raise. -/
theorem hostStep_in_error {w : CmdWord} (hp : s.ph = 0) (he : s.err = true) (hw : w ≠ 0x0100) :
    ∃ c d, hostStep w s = .next (respond s c d) ∧ c ≠ .fail := by
  obtain ⟨c, d, e⟩ := hostStep_of_ended hp (.inr he) hw
  obtain ⟨u, hu, effect⟩ := hostStep_next w s
  obtain rfl := Host.Outcome.next.inj (e.symm.trans hu)
  exact ⟨c, d, e, effect.code_ne_fail he rfl⟩

end Exception

/-- Settles O29: `HASH` passes its gates and raises. -/
theorem inputTooLongEntry : Obligations.InputTooLongEntry := fun s hp hd he ho =>
  ⟨raiseInputTooLong s, execHash_of_ovf hp hd he ho, rfl, top_error_iff.2 ⟨hp, hd, rfl⟩,
    status_of_error hp hd rfl ho, rfl⟩

/-- Settles O30: `INIT` opens an invocation, another word is only answered, and the core is idle. -/
theorem errorLeftByInitOnly : Obligations.ErrorLeftByInitOnly := by
  intro s h htop hr
  obtain ⟨hp, -, he⟩ := top_error_iff.1 htop
  refine ⟨fun ht => ?init, fun hinit => ?other⟩
  case init =>
    refine ⟨_, step_init_of_idle ht hp, rfl, rfl, rfl, rfl, rfl, top_collect_iff.2 ⟨hp, rfl, rfl⟩, ?_⟩
    exact List.take_zero
  case other =>
    rcases turn_cases s with ht | ⟨w, ht⟩ | ht
    · simp [ht] at hr
    · obtain ⟨c, d, e, hc⟩ := hostStep_in_error (s := takeInput s) hp he fun hw => hinit (hw ▸ ht)
      exact ⟨_, (step_hostTurn ht).trans e, rfl, by simp [hc]⟩
    · have hidle := coreStep_idle (s := takeInput s) hp (h.idx_of_idle hp)
      exact ⟨_, (step_coreTurn ht).trans hidle, rfl, by simp⟩

end Sys2Proof.Machine

/-! Family 70_reset_and_hazards: what reset leaves (R210) and how it compares with `INIT` (R211), that no reachable state
is without a next one (R214, R217), and the count of the core steps owed (R216). -/

namespace Sys2Proof.Machine

/-! ### Reset (R210, R211) -/

/-- An idle core with an empty input, where no phase reads the datapath: opening an invocation and reset differ only in
contents that are not live (R41). -/
theorem agree_openInvocation_applyReset {s : State} (hp : s.ph = 0) (hi : s.idx = 0) :
    Agree (openInvocation s) (applyReset s) where
  inputs := rfl
  rsp := rfl
  len := rfl
  ovf := rfl
  ph := hp
  idx := hi
  done := rfl
  err := rfl
  ecode := rfl
  ib := by simp
  blk := by simp [hp]
  w_below := by simp [hp]
  w_all := by simp [hp]
  regs := by simp [hp]
  dg := by simp

/-- Settles O28: outside a computation `INIT` opens an invocation, and `rsp` is the only field its answer writes. -/
theorem initLeavesWhatResetLeaves : Obligations.InitLeavesWhatResetLeaves := by
  intro s t h hp e
  obtain rfl := Host.Outcome.next.inj ((execInit_of_idle hp).symm.trans e)
  exact agree_openInvocation_applyReset (s := { s with rsp := none }) hp (h.idx_of_idle hp)

/-- Settles O10: reset takes precedence over the word offered, and writes every control register. -/
theorem resetClearsControl : Obligations.ResetClearsControl := fun _ hr =>
  ⟨_, step_reset hr, rfl, rfl, rfl, rfl, rfl, rfl, rfl, status_of_collect rfl rfl rfl,
    top_collect_iff.2 ⟨rfl, rfl, rfl⟩, List.take_zero, rfl, rfl, rfl⟩

section Progress

variable {s t : State}

/-! ### The core steps owed (R216, R217) -/

@[simp] theorem owed_takeInput (s : State) : (takeInput s).owed = s.owed := rfl

@[simp] theorem owed_respond (s : State) (c : RspCode) (d : Byte) : (respond s c d).owed = s.owed := rfl

theorem owed_of_idle (hp : s.ph = 0) : s.owed = 0 := by simp [State.owed, hp]

/-- The rows of the table of R33 lie between the first, with 116 core steps to go, and the last, with one. -/
theorem CoreInv.owed_range (h : CoreInv s) (hp : s.ph ≠ 0) : 1 ≤ s.owed ∧ s.owed ≤ 116 := by
  have hidx := s.idx.isLt
  rcases h.seq_reachable with ⟨p, _⟩ | ⟨p, _⟩ | ⟨p, _⟩ | ⟨p, i⟩ | ⟨p, _⟩ | p | ⟨p, _⟩
  · exact absurd p hp
  · simp [State.owed, p]
  · simp [State.owed, p]
  · simp [State.owed, p]
    omega
  · simp [State.owed, p]
  · simp [State.owed, p]
    omega
  · simp [State.owed, p]

theorem CoreInv.owed_eq_zero_iff (h : CoreInv s) : s.owed = 0 ↔ s.ph = 0 := by
  refine ⟨fun howed => ?_, owed_of_idle⟩
  by_contra hp
  have := h.owed_range hp
  omega

/-- `U.EXP i` goes on to the next index, the last one to `U.INI`, and one step is paid either way. -/
theorem owed_after_uExp (s : State) (i : BitVec 6) :
    (setSeq s (if i.toNat < 63 then 3 else 4) (if i.toNat < 63 then i + 1 else 0)).owed + 1 = 64 - i.toNat + 66 := by
  by_cases hlast : i.toNat < 63
  all_goals
    simp [State.owed, hlast]
    omega

/-- `U.RND i` goes on to the next round, the last one to `U.FIN`, and one step is paid either way. -/
theorem owed_after_uRnd (s : State) (i : BitVec 6) :
    (setSeq s (if i.toNat < 63 then 5 else 6) (if i.toNat < 63 then i + 1 else 0)).owed + 1 = 64 - i.toNat + 1 := by
  by_cases hlast : i.toNat < 63
  all_goals
    simp [State.owed, hlast]
    omega

/-- Each row of the table of R33 but the idle one pays one of the core steps owed. -/
theorem CoreInv.coreStep_pays (h : CoreInv s) (hp : s.ph ≠ 0) : ∃ t, coreStep s = .next t ∧ t.owed + 1 = s.owed := by
  rcases coreStep_cases h.seq_reachable h.len_le with ⟨p, _, c⟩ | ⟨p, _, c⟩ | ⟨p, _, c⟩ | ⟨p, i, c⟩ | ⟨p, _, c⟩ |
    ⟨p, c⟩ | ⟨p, _, c⟩
  · exact absurd p hp
  · exact ⟨_, c, by simp [State.owed, p]⟩
  · exact ⟨_, c, by simp [State.owed, p]⟩
  · exact ⟨_, c, (owed_after_uExp _ _).trans (by simp [State.owed, p])⟩
  · exact ⟨_, c, by simp [State.owed, p]⟩
  · exact ⟨_, c, (owed_after_uRnd _ _).trans (by simp [State.owed, p])⟩
  · exact ⟨_, c, by simp [State.owed, p]⟩

/-- A core turn ends a computation by `U.FIN` only, and `DONE` is never set during one. -/
theorem CoreInv.owed_eq_zero_iff_done (h : CoreInv s) (hp : s.ph ≠ 0) (ht : State.coreTurn s) (e : step s = .next t) :
    t.owed = 0 ↔ t.done = true := by
  have hinv : CoreInv t := everyStepKeepsInvariant s t h e
  have hr : s.pins.rst = false := congrArg Pins.rst ht
  rw [hinv.owed_eq_zero_iff]
  refine ⟨fun hidle => ?_, hinv.ph_of_done⟩
  obtain ⟨-, -, hdone⟩ := uFin_of_turn_to_idle h hr hp e hidle
  exact hdone

/-! ### Every transition has a next state (R214, R217) -/

theorem CoreInv.coreStep_next (h : CoreInv s) : ∃ t, coreStep s = .next t := by
  by_cases hp : s.ph = 0
  · exact ⟨s, coreStep_idle hp (h.idx_of_idle hp)⟩
  · obtain ⟨t, e, -⟩ := h.coreStep_pays hp
    exact ⟨t, e⟩

end Progress

/-- Settles O50: by the turn. A core turn pays one step, a host step while the core computes only answers. -/
theorem coreStepsOwedCountDown : Obligations.CoreStepsOwedCountDown := by
  intro s h hp
  refine ⟨h.owed_range hp, fun ht => ?core, fun w ht => ?host⟩
  case core =>
    obtain ⟨t, hstep, hpays⟩ := h.takeInput.coreStep_pays hp
    have e := (step_coreTurn ht).trans hstep
    exact ⟨t, e, hpays, h.owed_eq_zero_iff_done hp ht e⟩
  case host =>
    obtain ⟨c, d, e⟩ := hostStep_of_busy (s := takeInput s) w hp
    exact ⟨_, (step_hostTurn ht).trans e, by simp⟩

/-- Settles O48: by the turn. Reset and host steps have a next state in every state, a core turn where the invariant
holds. -/
theorem invariantStatesNeverStop : Obligations.InvariantStatesNeverStop := by
  intro s h
  rcases turn_cases s with ht | ⟨w, ht⟩ | ht
  · exact ⟨_, step_reset ht⟩
  · obtain ⟨t, e, -⟩ := hostStep_next w (takeInput s)
    exact ⟨t, (step_hostTurn ht).trans e⟩
  · obtain ⟨t, e⟩ := h.takeInput.coreStep_next
    exact ⟨t, (step_coreTurn ht).trans e⟩

end Sys2Proof.Machine
